-- ==== Sys2Proof/Word.lean ====
section
/-! DEFINITION. The word and byte types of the RingMod core. -/

namespace Sys2Proof

/-- A word: every register, operand, sample and memory word is 32 bits wide
(`00_scope.md` R8, R9). Bits are numbered 31 down to 0. -/
abbrev Word := BitVec 32

/-- A byte of the platform's byte-addressed memory (`20_memory.md` R44). -/
abbrev Byte := BitVec 8

end Sys2Proof
end

