-- ==== Sys2Proof/Syntax.lean ====
section
/-! DEFINITION. Ports, command records and the instructions: one constructor per row of the opcode
table (`30_encoding.md` R69). -/

namespace Sys2Proof

/-- The two command ports (`30_encoding.md` R64). -/
inductive Port where
  | main
  | ctrl
deriving DecidableEq, Repr

/-- A command record: seven words (`30_encoding.md` R60, R61). `cw0` holds the opcode and the
reserved field, `cw1` to `cw6` the operands `A1` to `A6`. -/
structure Record where
  cw0 : Word
  cw1 : Word
  cw2 : Word
  cw3 : Word
  cw4 : Word
  cw5 : Word
  cw6 : Word
deriving DecidableEq, Repr

/-- A command as it arrived: the row of the opcode table its header word selects, the port it
arrived on, and the operands the row names. A command of the other port is the same row with the
wrong port; it answers as a reserved encoding (`30_encoding.md` R77 case (c), log 10). -/
inductive Instr where
  /-- `CREATE`, opcode 0x01 (R70). -/
  | create (p : Port)
  /-- `RELEASE`, opcode 0x02 (R71). -/
  | release (p : Port)
  /-- `PROC`, opcode 0x03 (R72). -/
  | proc (p : Port) (inBase outBase frameCount inChannels outChannels sampleRate : Word)
  /-- `SET`, opcode 0x10 (R73). -/
  | set (p : Port) (index value : Word)
  /-- `GET`, opcode 0x11 (R74). -/
  | get (p : Port) (index : Word)
  /-- `DESC`, opcode 0x12 (R75). -/
  | desc (p : Port) (index : Word)
  /-- `GETBUF`, opcode 0x13 (R76). -/
  | getbuf (p : Port) (name buffer numSamples : Word)
  /-- Reserved, opcode 0x00 (R77). -/
  | reserved00 (p : Port)
  /-- Reserved, opcodes 0x04 to 0x07 (R77): `low` is bits 1..0 of the opcode. -/
  | reserved04To07 (p : Port) (low : BitVec 2)
  /-- Reserved, opcodes 0x08 to 0x0F (R77): `low` is bits 2..0 of the opcode. -/
  | reserved08To0F (p : Port) (low : BitVec 3)
  /-- Reserved, opcodes 0x14 to 0x17 (R77): `low` is bits 1..0 of the opcode. -/
  | reserved14To17 (p : Port) (low : BitVec 2)
  /-- Reserved, opcodes 0x18 to 0x1F (R77): `low` is bits 2..0 of the opcode. -/
  | reserved18To1F (p : Port) (low : BitVec 3)
  /-- Reserved, opcodes 0x20 to 0x3F (R77): `low` is bits 4..0 of the opcode. -/
  | reserved20To3F (p : Port) (low : BitVec 5)
  /-- Reserved, opcodes 0x40 to 0x7F (R77): `low` is bits 5..0 of the opcode. -/
  | reserved40To7F (p : Port) (low : BitVec 6)
  /-- Reserved, opcodes 0x80 to 0xFF (R77): `low` is bits 6..0 of the opcode. -/
  | reserved80ToFF (p : Port) (low : BitVec 7)
  /-- Reserved, `RSV = CW[0][31:8]` not zero (R77 case (a)). -/
  | reservedRsvNonzero (p : Port) (rsv : BitVec 24) (opc : BitVec 8)
deriving DecidableEq, Repr

/-- The port a command arrived on. -/
def Instr.port : Instr → Port
  | .create p => p
  | .release p => p
  | .proc p _ _ _ _ _ _ => p
  | .set p _ _ => p
  | .get p _ => p
  | .desc p _ => p
  | .getbuf p _ _ _ => p
  | .reserved00 p => p
  | .reserved04To07 p _ => p
  | .reserved08To0F p _ => p
  | .reserved14To17 p _ => p
  | .reserved18To1F p _ => p
  | .reserved20To3F p _ => p
  | .reserved40To7F p _ => p
  | .reserved80ToFF p _ => p
  | .reservedRsvNonzero p _ _ => p

end Sys2Proof
end

