-- ==== Sys2Proof/WellFormed.lean ====
section
/-! DEFINITION. Which instruction terms stand for a command record. -/

namespace Sys2Proof

/-- Every operand is one whole word (`30_encoding.md` R63) and each reserved range carries exactly
its free opcode bits, so one check is left: the row for `RSV != 0` must hold a non-zero `RSV` (R77). -/
def Instr.wellFormed : Instr → Bool
  | .create _ => true
  | .release _ => true
  | .proc _ _ _ _ _ _ _ => true
  | .set _ _ _ => true
  | .get _ _ => true
  | .desc _ _ => true
  | .getbuf _ _ _ _ => true
  | .reserved00 _ => true
  | .reserved04To07 _ _ => true
  | .reserved08To0F _ _ => true
  | .reserved14To17 _ _ => true
  | .reserved18To1F _ _ => true
  | .reserved20To3F _ _ => true
  | .reserved40To7F _ _ => true
  | .reserved80ToFF _ _ => true
  | .reservedRsvNonzero _ rsv _ => rsv != 0

end Sys2Proof
end

