-- ==== Sys2Proof/Decode.lean ====
section
/-! DEFINITION. The decoder of command records, total on every record and every port
(`30_encoding.md` R77, R78), the rejection by name of what is no record, and the encoder. -/

namespace Sys2Proof

/-- The opcode field `OPC = CW[0][7:0]` (`30_encoding.md` R61, R68). -/
def Record.opc (cw : Record) : BitVec 8 := cw.cw0.extractLsb' 0 8

/-- The reserved field `RSV = CW[0][31:8]`, which must be zero (`30_encoding.md` R61). -/
def Record.rsv (cw : Record) : BitVec 24 := cw.cw0.extractLsb' 8 24

/-- Decoding a record placed on port `p` (`30_encoding.md` R78), in the order of the opcode table
once the catch-all row `RSV != 0` has been taken out first. -/
def decode (p : Port) (cw : Record) : Instr :=
  if cw.rsv ≠ 0 then .reservedRsvNonzero p cw.rsv cw.opc
  else if cw.opc = 0x01 then .create p
  else if cw.opc = 0x02 then .release p
  else if cw.opc = 0x03 then .proc p cw.cw1 cw.cw2 cw.cw3 cw.cw4 cw.cw5 cw.cw6
  else if cw.opc = 0x10 then .set p cw.cw1 cw.cw2
  else if cw.opc = 0x11 then .get p cw.cw1
  else if cw.opc = 0x12 then .desc p cw.cw1
  else if cw.opc = 0x13 then .getbuf p cw.cw1 cw.cw2 cw.cw3
  else if cw.opc = 0x00 then .reserved00 p
  else if cw.opc.extractLsb' 2 6 = 0x01 then .reserved04To07 p (cw.opc.extractLsb' 0 2)
  else if cw.opc.extractLsb' 3 5 = 0x01 then .reserved08To0F p (cw.opc.extractLsb' 0 3)
  else if cw.opc.extractLsb' 2 6 = 0x05 then .reserved14To17 p (cw.opc.extractLsb' 0 2)
  else if cw.opc.extractLsb' 3 5 = 0x03 then .reserved18To1F p (cw.opc.extractLsb' 0 3)
  else if cw.opc.extractLsb' 5 3 = 0x01 then .reserved20To3F p (cw.opc.extractLsb' 0 5)
  else if cw.opc.extractLsb' 6 2 = 0x01 then .reserved40To7F p (cw.opc.extractLsb' 0 6)
  else .reserved80ToFF p (cw.opc.extractLsb' 0 7)

/-- Why a list of words is no command record. -/
inductive DecodeError where
  /-- Raised by `decodeWords` when the list does not hold exactly seven words: a record has no other
  length (`30_encoding.md` R60). Safe: no port ever holds such a list. -/
  | wrongLength (words : Nat)
deriving DecidableEq, Repr

/-- What decoding a list of words answers. -/
inductive Decoded where
  | instr (i : Instr)
  | rejected (e : DecodeError)
deriving DecidableEq, Repr

/-- Decoding the words of a record, `CW[0]` first: a decoder always takes seven words
(`30_encoding.md` R60). -/
def decodeWords (p : Port) : List Word → Decoded
  | [a, b, c, d, e, f, g] => .instr (decode p ⟨a, b, c, d, e, f, g⟩)
  | ws => .rejected (.wrongLength ws.length)

/-- The header word `CW[0]` of an instruction, from the opcode map (`30_encoding.md` R69 to R77). -/
def encodeHeader : Instr → Word
  | .create _ => 0x00000001
  | .release _ => 0x00000002
  | .proc _ _ _ _ _ _ _ => 0x00000003
  | .set _ _ _ => 0x00000010
  | .get _ _ => 0x00000011
  | .desc _ _ => 0x00000012
  | .getbuf _ _ _ _ => 0x00000013
  | .reserved00 _ => 0x00000000
  | .reserved04To07 _ low => (0x00000001#30) ++ low
  | .reserved08To0F _ low => (0x00000001#29) ++ low
  | .reserved14To17 _ low => (0x00000005#30) ++ low
  | .reserved18To1F _ low => (0x00000003#29) ++ low
  | .reserved20To3F _ low => (0x00000001#27) ++ low
  | .reserved40To7F _ low => (0x00000001#26) ++ low
  | .reserved80ToFF _ low => (0x00000001#25) ++ low
  | .reservedRsvNonzero _ rsv opc => rsv ++ opc

/-- The record of an instruction, ignored words written as zero (`30_encoding.md` R70 to R76, R80). -/
def encode (i : Instr) : Record :=
  match i with
  | .proc _ ib ob len ic oc rate => ⟨encodeHeader i, ib, ob, len, ic, oc, rate⟩
  | .set _ index value => ⟨encodeHeader i, index, value, 0, 0, 0, 0⟩
  | .get _ index => ⟨encodeHeader i, index, 0, 0, 0, 0, 0⟩
  | .desc _ index => ⟨encodeHeader i, index, 0, 0, 0, 0, 0⟩
  | .getbuf _ name buffer num => ⟨encodeHeader i, name, buffer, num, 0, 0, 0⟩
  | .create _ => ⟨encodeHeader i, 0, 0, 0, 0, 0, 0⟩
  | .release _ => ⟨encodeHeader i, 0, 0, 0, 0, 0, 0⟩
  | .reserved00 _ => ⟨encodeHeader i, 0, 0, 0, 0, 0, 0⟩
  | .reserved04To07 _ _ => ⟨encodeHeader i, 0, 0, 0, 0, 0, 0⟩
  | .reserved08To0F _ _ => ⟨encodeHeader i, 0, 0, 0, 0, 0, 0⟩
  | .reserved14To17 _ _ => ⟨encodeHeader i, 0, 0, 0, 0, 0, 0⟩
  | .reserved18To1F _ _ => ⟨encodeHeader i, 0, 0, 0, 0, 0, 0⟩
  | .reserved20To3F _ _ => ⟨encodeHeader i, 0, 0, 0, 0, 0, 0⟩
  | .reserved40To7F _ _ => ⟨encodeHeader i, 0, 0, 0, 0, 0, 0⟩
  | .reserved80ToFF _ _ => ⟨encodeHeader i, 0, 0, 0, 0, 0, 0⟩
  | .reservedRsvNonzero _ _ _ => ⟨encodeHeader i, 0, 0, 0, 0, 0, 0⟩

/-- Word `j` of a command seen as one number, `CW[0]` lowest (`30_encoding.md` R60). -/
def tableWord (nbits w j : Nat) : Word := BitVec.ofNat 32 ((w % 2 ^ nbits) / 2 ^ (32 * j))

/-- The seven words of a command seen as one number of `nbits` bits, the bits above zero. -/
def tableWords (nbits w : Nat) : List Word := (List.range 7).map (tableWord nbits w)

/-- The record of a command seen as one number of `nbits` bits, the bits above zero. -/
def tableRecord (nbits w : Nat) : Record :=
  ⟨tableWord nbits w 0, tableWord nbits w 1, tableWord nbits w 2, tableWord nbits w 3,
    tableWord nbits w 4, tableWord nbits w 5, tableWord nbits w 6⟩

/-- The port that serves a header word: `CTRL` for the four commands of `CTRL`, `MAIN` for the three
of `MAIN` (`30_encoding.md` R64). A reserved encoding answers alike on both; it is placed on `MAIN`. -/
def servingPort (cw0 : Word) : Port :=
  if cw0 = 0x10 ∨ cw0 = 0x11 ∨ cw0 = 0x12 ∨ cw0 = 0x13 then .ctrl else .main

/-- The instruction the decoder reads from a command seen as one number numbered as the opcode table
numbers its bits, placed on the port that serves it. -/
def decodeTableWord (nbits w : Nat) : Option Instr :=
  match decodeWords (servingPort (tableWord nbits w 0)) (tableWords nbits w) with
  | .instr i => some i
  | .rejected _ => none

end Sys2Proof
end

