-- ==== Sys2Proof/Config.lean ====
section
/-! DEFINITION. The free values of the model: what the spec leaves to the implementation or calls
unspecified. None has a body, so nothing proved can rest on a value of one. -/

namespace Sys2Proof

/-- The word that stands for the `t`-th unspecified value of a run (`00_scope.md` R14 "unspecified";
`93_implementation_defined.md` U2, U10). Applied to `State.draw` (log 2). -/
opaque Config.freeWord : Nat → Word

/-- The choice between agents that are enabled together, where the schedule of the state does not
make it (`60_exceptions.md` R191). Applied to `State.draw` (log 7). -/
opaque Config.freeChoice : Nat → Nat

/-- What the sine unit gives for a finite non-zero argument, before it is held to the bound of
property S5 (`40_numerics.md` R98; decision D12, which leaves `SIN32` open; log 3). -/
opaque Config.sineUnit : Word → Word

end Sys2Proof
end

