-- ==== Sys2Proof/Machine/Rom.lean ====
section
/-! DEFINITION. `DESCROM`, the table of parameter descriptors. -/

namespace Sys2Proof.Machine

/-- One descriptor: five binary32 words in the source's order (`10_state.md` R31). -/
structure Descriptor where
  min : Word
  max : Word
  dflt : Word
  scale : Word
  exponent : Word
deriving DecidableEq, Repr

/-- The table: `DESCROM[0]` for `Frequency`, `DESCROM[1]` for `Mix Amount` (`10_state.md` R31). -/
structure DescRom where
  frequency : Descriptor
  mix : Descriptor
deriving DecidableEq, Repr

/-- The ten constants of `DESCROM` (`10_state.md` R31), the same in every core
(`42_parameter_store.md` R130). -/
def descRomWords : DescRom where
  frequency := ⟨0x00000000, 0x46AC4400, 0x447A0000, 0x3F800000, 0x40400000⟩
  mix := ⟨0x00000000, 0x3F800000, 0x3F000000, 0x3F800000, 0x3F800000⟩

end Sys2Proof.Machine
end

