-- ==== Sys2Proof/Machine/State.lean ====
section
/-! DEFINITION. The state of the machine: the core's own state (`10_state.md` R20), the sample memory
of the platform, and the host as plain data. -/

namespace Sys2Proof.Machine

/-- A response record: six words, `res` the result code (`30_encoding.md` R60, R65). -/
structure Response where
  res : Word
  d1 : Word
  d2 : Word
  d3 : Word
  d4 : Word
  d5 : Word
deriving DecidableEq, Repr

/-- One move of the host (`70_reset_and_hazards.md` R212; `60_exceptions.md` R190; log 8). -/
inductive HostMove where
  /-- Place a record on the port; enabled while the port is free (R206), and on `MAIN` for a `PROC`
  whose reads are all inside the region lent (`93_implementation_defined.md` U3). -/
  | issue (cw : Record)
  /-- Write one word of the sample memory; enabled while no outstanding `PROC` holds it lent (R205). -/
  | store (addr value : Word)
  /-- Assert the hardware reset; always enabled (R200). -/
  | reset
deriving DecidableEq, Repr

/-- The agents of the model (`60_exceptions.md` R190): the host's caller of each port, the main
agent, the engine and the control agent. -/
inductive Agent where
  | host (p : Port)
  | main
  | engine
  | control
deriving DecidableEq, Repr

/-- One command port and its caller. -/
structure PortState where
  /-- The command held by the port, from the moment the host places it until its response is handed
  back (`10_state.md` R32). On `MAIN` a running `PROC` is the command held while `ENG.RUN = 1`. -/
  cmd : Option Record
  /-- The response in the host's hands, kept until the host's next command on the port or a reset.
  The core never reads it (`60_exceptions.md` R182; log 9). -/
  resp : Option Response
  /-- The host's moves still to come on this port (`70_reset_and_hazards.md` R214; log 8). -/
  todo : List HostMove
deriving DecidableEq, Repr

/-- The engine context `ENG` (`10_state.md` R28, R29). -/
structure Eng where
  run : Bool
  ib : Word
  ob : Word
  len : Word
  oc : Word
  w : Word
  m : Word
  a : Word
  n : Word
  i : Word
deriving DecidableEq, Repr

/-- The sample memory as the cells that have contents: byte addresses strictly rising, each below
`2^34` (`20_memory.md` R41, R44; DEDUCED, log 6). An address that is not listed has no contents
(DESIGN CHOICE, log 4). -/
abbrev Memory := List Host.Cell

/-- The state of the machine. -/
structure State where
  /-- `LIVE` (`10_state.md` R27). -/
  live : Bool
  /-- `P[0]`, frequency (`10_state.md` R22). -/
  p0 : Word
  /-- `P[1]`, mix (`10_state.md` R23). -/
  p1 : Word
  /-- `P[2]`, the cell past the end (`10_state.md` R24). -/
  p2 : Word
  /-- `S`, the sine component of the phase (`10_state.md` R25). -/
  phaseS : Word
  /-- `C`, the cosine component of the phase (`10_state.md` R25). -/
  phaseC : Word
  /-- `ENG` (`10_state.md` R29). -/
  eng : Eng
  /-- `DESCROM` (`10_state.md` R31); nothing writes it (DEDUCED, log 11). -/
  rom : DescRom
  /-- Port `MAIN` (`10_state.md` R32). -/
  main : PortState
  /-- Port `CTRL` (`10_state.md` R32). -/
  ctrl : PortState
  /-- The sample memory, the platform's (`20_memory.md` R41). -/
  mem : Memory
  /-- The order of steps already chosen, the next agent first (`60_exceptions.md` R191; log 7). -/
  schedule : List Agent
  /-- How many free values this run has drawn (log 2). -/
  draw : Nat
deriving DecidableEq, Repr

/-- Why the machine stops. -/
inductive Fault where
  /-- Raised by the engine's sample step when the word it reads has no contents: what a read of an
  address the platform does not back returns is not defined, and a model refuses it
  (`20_memory.md` R42; `93_implementation_defined.md` U5). Safe: the model stops where the hardware
  would go on with some word. -/
  | unbackedRead (addr : Word)
  /-- Raised by the engine's sample step when the word it reads is not lent to the call for reading: a
  model that keeps a launch memory refuses such an access (`20_memory.md` R51;
  `93_implementation_defined.md` U3, U5; decision D20). Safe: the model stops where the hardware would
  go on. -/
  | unlentRead (addr : Word)
  /-- Raised by the engine's sample step when the word it writes is not lent to the call for writing
  (`20_memory.md` R51; `93_implementation_defined.md` U5). Safe, as `unlentRead` is. -/
  | unlentWrite (addr : Word)
deriving DecidableEq, Repr

/-- Why an instruction has no meaning here. -/
inductive Refusal where
  /-- Raised only by an arm of `exec` whose instruction has no meaning yet; no arm of this model does.
  Safe. -/
  | notModelled (mnemonic : String)
deriving DecidableEq, Repr

/-- The answer of a step. -/
abbrev Outcome := Host.Outcome State Fault Refusal

/-- A port right after reset: free, no response pending, nothing to come (`10_state.md` R34). -/
def PortState.reset : PortState := ⟨none, none, []⟩

/-- The engine context right after reset: `RUN = 0` (`10_state.md` R34); the other fields are
unspecified there and hold the values log 1 names. -/
def Eng.reset : Eng := ⟨false, 0, 0, 0, 0, 0, 0, 0, 0, 0⟩

/-- The machine right after reset (`10_state.md` R34; `70_reset_and_hazards.md` R200, R201). Where
R34 says unspecified the value is the one log 1 names. -/
def State.reset : State where
  live := false
  p0 := 0
  p1 := 0
  p2 := 0
  phaseS := 0
  phaseC := 0
  eng := Eng.reset
  rom := descRomWords
  main := PortState.reset
  ctrl := PortState.reset
  mem := []
  schedule := []
  draw := 0

end Sys2Proof.Machine
end

