-- ==== Sys2Proof/Machine/Flags.lean ====
section
/-! DEFINITION. Result codes. The core has no flags, no condition codes and no sticky status
(`10_state.md` R30; `40_numerics.md` R96): the one outcome an operation reports is its result code. -/

namespace Sys2Proof.Machine

/-- The result codes (`30_encoding.md` R66; `60_exceptions.md` R177). -/
inductive ResultCode where
  | ok
  | invalidIndex
  | notLive
  | badCommand
deriving DecidableEq, Repr

/-- The number of a result code (`30_encoding.md` R66). -/
def ResultCode.word : ResultCode → Word
  | .ok => 0x00000000
  | .invalidIndex => 0x00000001
  | .notLive => 0x00000002
  | .badCommand => 0x00000003

/-- The response that carries a result code and no data (`30_encoding.md` R65). -/
def ResultCode.response (code : ResultCode) : Response := ⟨code.word, 0, 0, 0, 0, 0⟩

/-- The first test that fires gives the code: reserved encoding, then no instance, then the index
(`60_exceptions.md` R183). -/
def resultCode (reserved notLive badIndex : Bool) : ResultCode :=
  if reserved then .badCommand
  else if notLive then .notLive
  else if badIndex then .invalidIndex
  else .ok

end Sys2Proof.Machine
end

