-- ==== Sys2Proof/Machine/Operands.lean ====
section
/-! DEFINITION. The readings of operand words: the index validators and the one addressing mode. -/

namespace Sys2Proof.Machine

/-- The three parameter cells (`10_state.md` R21). -/
inductive ParamCell where
  | frequency
  | mix
  | pastEnd
deriving DecidableEq, Repr

/-- `IDX_VALID`, the validator of `SET` and `GET`: the index is read signed and the upper bound is
inclusive (`42_parameter_store.md` R121, R122; `40_numerics.md` R101). -/
def idxValid (index : Word) : Bool := !decide (index.toInt < 0) && !decide (index.toInt > 2)

/-- The strict validator of `DESC` (`42_parameter_store.md` R128, R129; `40_numerics.md` R102). -/
def descValid (index : Word) : Bool := !decide (index.toInt < 0) && !decide (index.toInt ≥ 2)

/-- The cell `P[u32(index)]` of an index the validator accepts (`42_parameter_store.md` R124). -/
def cellAt (index : Word) : ParamCell :=
  if index = 0 then .frequency else if index = 1 then .mix else .pastEnd

/-- The row `DESCROM[u32(index)]` of an index the strict validator accepts
(`42_parameter_store.md` R128). -/
def rowAt (rom : DescRom) (index : Word) : Descriptor :=
  if index = 0 then rom.frequency else rom.mix

/-- The offset of frame `n`, channel `i`, modulo `2^32` (`20_memory.md` R49, R50). -/
def offset (oc n i : Word) : Word := n * oc + i

/-- The word address the engine reads at its current frame and channel (`20_memory.md` R50). -/
def Eng.inAddr (e : Eng) : Word := e.ib + offset e.oc e.n e.i

/-- The word address the engine writes at its current frame and channel (`20_memory.md` R50). -/
def Eng.outAddr (e : Eng) : Word := e.ob + offset e.oc e.n e.i

/-- Whether a word address is in the `count` words from `base`, wrapping modulo `2^32`
(`20_memory.md` R50, R51). -/
def inRegion (base : Word) (count : Nat) (addr : Word) : Bool := decide ((addr - base).toNat < count)

/-- How many words a `PROC` record writes, all lent: `frame_count * out_channels`
(`20_memory.md` R51). -/
def outWords (cw : Record) : Nat := cw.cw3.toNat * cw.cw5.toNat

/-- How many input words a `PROC` record has lent: the `frame_count * out_channels` of
`20_memory.md` R51, as far as the host's input buffer of `frame_count * in_channels` samples reaches
(DEDUCED, log 16). -/
def inWords (cw : Record) : Nat := cw.cw3.toNat * min cw.cw4.toNat cw.cw5.toNat

/-- Whether a command has a word lent for reading (`20_memory.md` R51; DEDUCED, log 16). -/
def lendsInput (cw : Record) (addr : Word) : Bool :=
  cw.cw0 == 0x00000003 && inRegion cw.cw1 (inWords cw) addr

/-- Whether a command has a word lent for writing (`20_memory.md` R51; DEDUCED, log 16). -/
def lendsOutput (cw : Record) (addr : Word) : Bool :=
  cw.cw0 == 0x00000003 && inRegion cw.cw2 (outWords cw) addr

/-- Whether every word the command reads is lent to it, as the host guarantees of a `PROC` it issues;
a region of `2^32` words or more is the whole memory (`93_implementation_defined.md` U3, H7). -/
def callCovered (cw : Record) : Bool :=
  cw.cw0 != 0x00000003 || decide (min (outWords cw) (2 ^ 32) ≤ inWords cw)

end Sys2Proof.Machine
end

