-- ==== Sys2Proof/Machine/Ops.lean ====
section
/-! DEFINITION. The named operations over the state: memory, parameter cells, phase, ports, and the
hardware reset event. The core takes no exception and returns from none (`60_exceptions.md` R176):
what an operation does instead is answer a result code (`State.respond`, `State.gate`), and the one
asynchronous event is the hardware reset (`State.hardReset`). -/

namespace Sys2Proof.Machine

/-! ### Memory -/

/-- The byte at a byte address, or none where the address has no contents. -/
def Memory.readByte : Memory → Nat → Option Byte
  | [], _ => none
  | (b, v) :: rest, a => if a = b then some v else Memory.readByte rest a

/-- Writing one byte, keeping the addresses strictly rising. -/
def Memory.writeByte : Memory → Nat → Byte → Memory
  | [], a, v => [(a, v)]
  | (b, w) :: rest, a, v =>
    if a < b then (a, v) :: (b, w) :: rest
    else if a = b then (a, v) :: rest
    else (b, w) :: Memory.writeByte rest a v

/-- Addresses strictly rising above `lo` and below `2^34`. -/
def Memory.risingFrom : Nat → Memory → Bool
  | _, [] => true
  | lo, (a, _) :: rest => decide (lo ≤ a) && decide (a < 2 ^ 34) && Memory.risingFrom (a + 1) rest

/-- The canonical form of the memory: byte addresses strictly rising and inside the space of `2^32`
words. An unlisted address reads as no contents, so no entry equals what it would read as. -/
def Memory.wf (m : Memory) : Bool := Memory.risingFrom 0 m

/-- The byte address of byte `k` of the word at word address `addr` (`20_memory.md` R44). -/
def byteAddr (addr : Word) (k : Nat) : Nat := 4 * addr.toNat + k

/-- `MemRead(addr, 1)`: the whole word, little-endian over its four bytes, or none where the word has
no contents (`20_memory.md` R42, R44). -/
def Memory.readWord (m : Memory) (addr : Word) : Option Word :=
  match m.readByte (byteAddr addr 0), m.readByte (byteAddr addr 1),
    m.readByte (byteAddr addr 2), m.readByte (byteAddr addr 3) with
  | some b0, some b1, some b2, some b3 => some (b3 ++ b2 ++ b1 ++ b0)
  | _, _, _, _ => none

/-- `MemWrite(addr, 1, v)`: all four bytes of the word and nothing else (`20_memory.md` R43, R44). -/
def Memory.writeWord (m : Memory) (addr v : Word) : Memory :=
  (((m.writeByte (byteAddr addr 0) (v.extractLsb' 0 8)).writeByte (byteAddr addr 1)
    (v.extractLsb' 8 8)).writeByte (byteAddr addr 2) (v.extractLsb' 16 8)).writeByte
    (byteAddr addr 3) (v.extractLsb' 24 8)

/-! ### Registers -/

/-- The read `P[k]` (`00_scope.md` R11; `10_state.md` R21). -/
def State.readP (s : State) : ParamCell → Word
  | .frequency => s.p0
  | .mix => s.p1
  | .pastEnd => s.p2

/-- The write `P[k] <- v`, all 32 bits (`10_state.md` R21; `40_numerics.md` R100). -/
def State.writeP (s : State) (k : ParamCell) (v : Word) : State :=
  match k with
  | .frequency => { s with p0 := v }
  | .mix => { s with p1 := v }
  | .pastEnd => { s with p2 := v }

/-- The write of the phase pair, both halves together (`43_oscillator_mixer.md` R149). -/
def State.setPhase (s : State) (sc : Word × Word) : State :=
  { s with phaseS := sc.1, phaseC := sc.2 }

/-- The write of the engine context. -/
def State.setEng (s : State) (e : Eng) : State := { s with eng := e }

/-- The write of the sample memory. -/
def State.setMem (s : State) (m : Memory) : State := { s with mem := m }

/-- What `CREATE` makes of the instance (`41_lifecycle.md` R111): `P[2]` becomes a free value. -/
def State.created (s : State) : State :=
  { s with
    p0 := 0x447A0000
    p1 := 0x3F000000
    p2 := Config.freeWord s.draw
    phaseS := 0x00000000
    phaseC := 0x3F800000
    live := true
    draw := s.draw + 1 }

/-- No instance, with `P`, `S` and `C` unspecified: each becomes a free value
(`41_lifecycle.md` R112; `10_state.md` R34). -/
def State.destroyed (s : State) : State :=
  { s with
    live := false
    p0 := Config.freeWord s.draw
    p1 := Config.freeWord (s.draw + 1)
    p2 := Config.freeWord (s.draw + 2)
    phaseS := Config.freeWord (s.draw + 3)
    phaseC := Config.freeWord (s.draw + 4)
    draw := s.draw + 5 }

/-- The engine context while no `PROC` is in flight: `RUN = 0` and every other field unspecified, a
free value each from the `t`-th on (`10_state.md` R29, R34). -/
def Eng.idle (t : Nat) : Eng where
  run := false
  ib := Config.freeWord t
  ob := Config.freeWord (t + 1)
  len := Config.freeWord (t + 2)
  oc := Config.freeWord (t + 3)
  w := Config.freeWord (t + 4)
  m := Config.freeWord (t + 5)
  a := Config.freeWord (t + 6)
  n := Config.freeWord (t + 7)
  i := Config.freeWord (t + 8)

/-- Stopping the engine: `ENG.RUN <- 0`, after which the other fields are unspecified
(`43_oscillator_mixer.md` R145, R150; `10_state.md` R29). -/
def State.stopEng (s : State) : State := { s with eng := Eng.idle s.draw, draw := s.draw + 9 }

/-! ### Ports -/

/-- The port `p`. -/
def State.port (s : State) : Port → PortState
  | .main => s.main
  | .ctrl => s.ctrl

/-- The write of port `p`. -/
def State.setPort (s : State) (p : Port) (q : PortState) : State :=
  match p with
  | .main => { s with main := q }
  | .ctrl => { s with ctrl := q }

/-- A port is free when it holds no command; `MAIN` holds one while `ENG.RUN = 1`
(`10_state.md` R29, R32). -/
def State.portFree (s : State) : Port → Bool
  | .main => s.main.cmd.isNone && !s.eng.run
  | .ctrl => s.ctrl.cmd.isNone

/-- The host places a record on port `p`, having taken the response to the one before
(`10_state.md` R32). -/
def State.place (s : State) (p : Port) (cw : Record) : State :=
  s.setPort p { s.port p with cmd := some cw, resp := none }

/-- `respond`: the response is handed back on port `p`, which is then free (`00_scope.md` R11;
`10_state.md` R32). -/
def State.respond (s : State) (p : Port) (r : Response) : State :=
  s.setPort p { s.port p with cmd := none, resp := some r }

/-- The tests every operation begins with, in their order (`60_exceptions.md` R183): a command of
port `own` that arrived on another port is a reserved encoding (`30_encoding.md` R77), an operation
that needs an instance answers `NotLive` without one (`41_lifecycle.md` R113), a bad index answers
`InvalidIndex`; otherwise the operation is performed. An operation that is turned away changes
nothing but its port (`60_exceptions.md` R182). -/
def State.gate (s : State) (p own : Port) (needsLive indexOk : Bool) (act : State → Outcome) :
    Outcome :=
  match resultCode (p != own) (needsLive && !s.live) (!indexOk) with
  | .ok => act s
  | .invalidIndex => .next (s.respond p ResultCode.invalidIndex.response)
  | .notLive => .next (s.respond p ResultCode.notLive.response)
  | .badCommand => .next (s.respond p ResultCode.badCommand.response)

/-- The answer to a reserved encoding, on either port and whatever `LIVE` is (`30_encoding.md` R77). -/
def State.badCommand (s : State) (p : Port) : Outcome :=
  .next (s.respond p ResultCode.badCommand.response)

/-! ### Lent regions -/

/-- Whether an outstanding `PROC` has a word lent for reading, from the moment its record is placed
until its response (`20_memory.md` R51; `70_reset_and_hazards.md` R205; DEDUCED, log 16). -/
def State.mayRead (s : State) (addr : Word) : Bool :=
  match s.main.cmd with
  | some cw => lendsInput cw addr
  | none => false

/-- Whether an outstanding `PROC` has a word lent for writing (`20_memory.md` R51;
`70_reset_and_hazards.md` R205; DEDUCED, log 16). -/
def State.mayWrite (s : State) (addr : Word) : Bool :=
  match s.main.cmd with
  | some cw => lendsOutput cw addr
  | none => false

/-- Whether an outstanding `PROC` has a word lent (`70_reset_and_hazards.md` R205). -/
def State.lent (s : State) (addr : Word) : Bool := s.mayRead addr || s.mayWrite addr

/-! ### Reset -/

/-- A port freed by the hardware reset: its command is discarded without a response
(`70_reset_and_hazards.md` R200). -/
def PortState.cleared (q : PortState) : PortState := { q with cmd := none, resp := none }

/-- The hardware reset event (`70_reset_and_hazards.md` R200, R202): no instance, the engine stopped,
both ports free, the sample memory and `DESCROM` as they were. -/
def State.hardReset (s : State) : State :=
  { s.destroyed.stopEng with main := s.main.cleared, ctrl := s.ctrl.cleared }

end Sys2Proof.Machine
end

