-- ==== Sys2Proof/Machine/BufferQuery.lean ====
section
/-! DEFINITION. The buffer query (`44_buffer_query.md`). -/

namespace Sys2Proof.Machine

/-- `GETBUF` (`44_buffer_query.md` R171): answers `Ok` and does nothing; all three operands are
ignored and port `MEM` is not used (R172). -/
def execGetbuf (p : Port) (_name _buffer _numSamples : Word) (s : State) : Outcome :=
  s.gate p .ctrl true true fun s => .next (s.respond p ResultCode.ok.response)

end Sys2Proof.Machine
end

