-- ==== Sys2Proof/Machine/Numerics.lean ====
section
/-! DEFINITION. Binary32 arithmetic, the sine unit and the formulas of the engine
(`40_numerics.md`; `43_oscillator_mixer.md` R143, R147, R149). Magnitudes are natural numbers counted
in units of `2^-149`, the smallest subnormal, so that every finite value is exact. -/

namespace Sys2Proof.Machine

/-- The canonical NaN (`40_numerics.md` R87, R89). -/
def qnan : Word := 0x7FC00000

/-- The constant `PI` (`40_numerics.md` R97). -/
def pi32 : Word := 0x40490FDB

/-- The constant 1 (`40_numerics.md` R97). -/
def one32 : Word := 0x3F800000

/-- The constant 2 (`40_numerics.md` R97). -/
def two32 : Word := 0x40000000

/-- The sign bit `v[31]` (`40_numerics.md` R86). -/
def signBit (v : Word) : Bool := v.msb

/-- The biased exponent `v[30:23]` (`40_numerics.md` R86). -/
def expField (v : Word) : Nat := (v.extractLsb' 23 8).toNat

/-- The fraction `v[22:0]` (`40_numerics.md` R86). -/
def fracField (v : Word) : Nat := (v.extractLsb' 0 23).toNat

/-- The class NaN (`40_numerics.md` R86). -/
def isNaN (v : Word) : Bool := expField v == 255 && fracField v != 0

/-- The class infinity (`40_numerics.md` R86). -/
def isInf (v : Word) : Bool := expField v == 255 && fracField v == 0

/-- The class zero (`40_numerics.md` R86). -/
def isZero (v : Word) : Bool := expField v == 0 && fracField v == 0

/-- A zero, a subnormal or a normal (`40_numerics.md` R87). -/
def isFinite (v : Word) : Bool := expField v != 255

/-- `neg(v)`: bit 31 inverted (`40_numerics.md` R87). -/
def fneg (v : Word) : Word := v ^^^ 0x80000000

/-- The magnitude of a finite datum in units of `2^-149` (`40_numerics.md` R86): `f` for a zero or a
subnormal, `(2^23 + f) * 2^(e - 150)` in those units for a normal. -/
def magnitude (v : Word) : Nat :=
  if expField v = 0 then fracField v else (2 ^ 23 + fracField v) * 2 ^ (expField v - 1)

/-- The value of a finite datum in units of `2^-149`. -/
def value (v : Word) : Int := if signBit v then -(magnitude v : Int) else magnitude v

/-- The natural number nearest to `n / d`, ties to even. -/
def nearestEven (n d : Nat) : Nat :=
  if 2 * (n % d) < d then n / d
  else if d < 2 * (n % d) then n / d + 1
  else n / d + n / d % 2

/-- The grid a magnitude of `n / d` units is rounded to is the multiples of `2^gridExp n d` units: 24
significant bits, and never finer than one unit (`40_numerics.md` R88 (b)). -/
def gridExp (n d : Nat) : Nat := Nat.log2 (n / d) - 23

/-- Bits 30..0 of the rounded magnitude before the overflow rule: the biased exponent steps with the
grid and the significand fills the fraction, a carry of the rounding included. -/
def roundBits (n d : Nat) : Nat :=
  gridExp n d * 2 ^ 23 + nearestEven n (d * 2 ^ gridExp n d)

/-- Bits 30..0 of an infinity. -/
def infBits : Nat := 0x7F800000

/-- The datum of sign `sg` whose bits 30..0 are `bits`. -/
def packSign (sg : Bool) (bits : Nat) : Word :=
  BitVec.ofNat 32 (if sg then 2 ^ 31 + bits else bits)

/-- `round32` of the real of magnitude `n / d` units and sign `sg`; `n = 0` gives the zero of sign
`sg` (`40_numerics.md` R88). -/
def round32 (sg : Bool) (n d : Nat) : Word := packSign sg (Nat.min (roundBits n d) infBits)

/-- The infinity of sign `sg`. -/
def infOf (sg : Bool) : Word := packSign sg infBits

/-- The zero of sign `sg`. -/
def zeroOf (sg : Bool) : Word := packSign sg 0

/-- Addition (`40_numerics.md` R89, R90). -/
def fadd (a b : Word) : Word :=
  if isNaN a || isNaN b then qnan
  else if isInf a && isInf b then (if signBit a = signBit b then a else qnan)
  else if isInf a then a
  else if isInf b then b
  else if isZero a && isZero b then zeroOf (signBit a && signBit b)
  else if value a + value b = 0 then zeroOf false
  else round32 (decide (value a + value b < 0)) (value a + value b).natAbs 1

/-- Subtraction (`40_numerics.md` R91). -/
def fsub (a b : Word) : Word :=
  if isNaN a || isNaN b then qnan else fadd a (fneg b)

/-- Multiplication (`40_numerics.md` R92). -/
def fmul (a b : Word) : Word :=
  if isNaN a || isNaN b then qnan
  else if (isZero a && isInf b) || (isInf a && isZero b) then qnan
  else if isInf a || isInf b then infOf (signBit a ^^ signBit b)
  else if isZero a || isZero b then zeroOf (signBit a ^^ signBit b)
  else round32 (signBit a ^^ signBit b) (magnitude a * magnitude b) (2 ^ 149)

/-- Division (`40_numerics.md` R93). -/
def fdiv (a b : Word) : Word :=
  if isNaN a || isNaN b then qnan
  else if (isZero a && isZero b) || (isInf a && isInf b) then qnan
  else if isInf a then infOf (signBit a ^^ signBit b)
  else if isInf b then zeroOf (signBit a ^^ signBit b)
  else if isZero b then infOf (signBit a ^^ signBit b)
  else if isZero a then zeroOf (signBit a ^^ signBit b)
  else round32 (signBit a ^^ signBit b) (magnitude a * 2 ^ 149) (magnitude b)

/-- Whether a word is a finite datum of magnitude at most 1.0 (`40_numerics.md` R98, S5). -/
def atMostOne (v : Word) : Bool := decide ((v.extractLsb' 0 31).toNat ≤ 0x3F800000)

/-- A word held to the bound of S5: itself where it meets the bound, else 1.0 of its sign. -/
def heldToOne (v : Word) : Word := if atMostOne v then v else packSign (signBit v) 0x3F800000

/-- `SIN32` (`40_numerics.md` R98): properties S2 to S5 hold by this definition, S1 because it is a
function, and beyond them it is the free function `Config.sineUnit` (log 3). -/
def sin32 (x : Word) : Word :=
  if !isFinite x then qnan
  else if isZero x then x
  else heldToOne (Config.sineUnit x)

/-- `ANGULAR_STEP` (`43_oscillator_mixer.md` R143). -/
def angularStep (freq rate : Word) : Word :=
  fmul two32 (sin32 (fdiv (fmul pi32 freq) rate))

/-- `MIX` (`43_oscillator_mixer.md` R147): `x` the input sample, `a = 1 - mix`, `m = mix`, `s` the
sine component of the phase. -/
def mixSample (x a m s : Word) : Word := fadd (fmul x a) (fmul (fmul x m) s)

/-- `ADVANCE` (`43_oscillator_mixer.md` R149): the new sine component goes into the new cosine
component. -/
def advance (s c w : Word) : Word × Word :=
  let sNext := fadd s (fmul c w)
  (sNext, fsub c (fmul sNext w))

end Sys2Proof.Machine
end

