-- ==== Sys2Proof/Machine/Engine.lean ====
section
/-! DEFINITION. The oscillator and mixer engine: `PROC` and the engine steps
(`43_oscillator_mixer.md`). -/

namespace Sys2Proof.Machine

/-- The engine context the start step latches (`43_oscillator_mixer.md` R142 to R144). -/
def Eng.start (inBase outBase frameCount outChannels sampleRate freq mix : Word) : Eng where
  run := true
  ib := inBase
  ob := outBase
  len := frameCount
  oc := outChannels
  w := angularStep freq sampleRate
  m := mix
  a := fsub one32 mix
  n := 0
  i := 0

/-- `PROC`, its start step (`43_oscillator_mixer.md` R141, R142): no response yet, and port `MAIN`
keeps the command until the done step (DEDUCED, log 14). `in_channels` is dropped (R157), and nothing
is checked here: a call that is not well formed starts all the same (`20_memory.md` R51; log 13). -/
def execProc (p : Port) (inBase outBase frameCount _inChannels outChannels sampleRate : Word)
    (s : State) : Outcome :=
  s.gate p .main true true fun s =>
    .next (s.setEng (Eng.start inBase outBase frameCount outChannels sampleRate s.p0 s.p1))

/-- The done step (`43_oscillator_mixer.md` R145, R150). -/
def doneStep (s : State) : Outcome :=
  .next (s.stopEng.respond .main ResultCode.ok.response)

/-- The engine context after an advance step: channel 0 of the next frame
(`43_oscillator_mixer.md` R145, R148). -/
def Eng.nextFrame (e : Eng) : Eng := { e with n := e.n + 1, i := 0 }

/-- The engine context after a sample step: the next channel (`43_oscillator_mixer.md` R145). -/
def Eng.nextChannel (e : Eng) : Eng := { e with i := e.i + 1 }

/-- The advance step (`43_oscillator_mixer.md` R145, R148, R149). -/
def advanceStep (s : State) : Outcome :=
  .next ((s.setPhase (advance s.phaseS s.phaseC s.eng.w)).setEng s.eng.nextFrame)

/-- The output sample of the engine's current frame and channel for the input sample `x`
(`43_oscillator_mixer.md` R146). -/
def State.outSample (s : State) (x : Word) : Word := mixSample x s.eng.a s.eng.m s.phaseS

/-- The sample step (`43_oscillator_mixer.md` R145, R146): read, compute, write. A word with no
contents stops the machine (`93_implementation_defined.md` U5; DESIGN CHOICE, log 4), and so does an
access outside the regions lent to the call (`20_memory.md` R51; U3, U5; log 13); the write lands at
every other address (log 5). -/
def sampleStep (s : State) : Outcome :=
  if s.mayRead s.eng.inAddr then
    match s.mem.readWord s.eng.inAddr with
    | some x =>
      if s.mayWrite s.eng.outAddr then
        .next ((s.setMem (s.mem.writeWord s.eng.outAddr (s.outSample x))).setEng s.eng.nextChannel)
      else .fault (.unlentWrite s.eng.outAddr)
    | none => .fault (.unbackedRead s.eng.inAddr)
  else .fault (.unlentRead s.eng.inAddr)

/-- The engine step (`43_oscillator_mixer.md` R145): the order of the two tests matters. -/
def engineStep (s : State) : Outcome :=
  if s.eng.n = s.eng.len then doneStep s
  else if s.eng.i = s.eng.oc then advanceStep s
  else sampleStep s

end Sys2Proof.Machine
end

