-- ==== Sys2Proof/Machine/Lifecycle.lean ====
section
/-! DEFINITION. The life-cycle operations (`41_lifecycle.md`). -/

namespace Sys2Proof.Machine

/-- `CREATE` (`41_lifecycle.md` R111): the one operation that does not test `LIVE`. -/
def execCreate (p : Port) (s : State) : Outcome :=
  s.gate p .main false true fun s => .next (s.created.respond p ResultCode.ok.response)

/-- `RELEASE` (`41_lifecycle.md` R112). -/
def execRelease (p : Port) (s : State) : Outcome :=
  s.gate p .main true true fun s => .next (s.destroyed.respond p ResultCode.ok.response)

end Sys2Proof.Machine
end

