-- ==== Sys2Proof/Machine/ParameterStore.lean ====
section
/-! DEFINITION. The parameter store (`42_parameter_store.md`). -/

namespace Sys2Proof.Machine

/-- `SET` (`42_parameter_store.md` R124): the raw 32 bits, never clamped (R123). -/
def execSet (p : Port) (index value : Word) (s : State) : Outcome :=
  s.gate p .ctrl true (idxValid index) fun s =>
    .next ((s.writeP (cellAt index) value).respond p ResultCode.ok.response)

/-- `GET` (`42_parameter_store.md` R125): the cell, then 0 for the empty display string (R127). -/
def execGet (p : Port) (index : Word) (s : State) : Outcome :=
  s.gate p .ctrl true (idxValid index) fun s =>
    .next (s.respond p ⟨ResultCode.ok.word, s.readP (cellAt index), 0, 0, 0, 0⟩)

/-- `DESC` (`42_parameter_store.md` R128): the five words of the descriptor. -/
def execDesc (p : Port) (index : Word) (s : State) : Outcome :=
  s.gate p .ctrl true (descValid index) fun s =>
    .next (s.respond p ⟨ResultCode.ok.word, (rowAt s.rom index).min, (rowAt s.rom index).max,
      (rowAt s.rom index).dflt, (rowAt s.rom index).scale, (rowAt s.rom index).exponent⟩)

end Sys2Proof.Machine
end

