-- ==== Sys2Proof/Machine/Reserved.lean ====
section
/-! DEFINITION. The reserved encodings (`30_encoding.md` R77): each answers `BadCommand` in one step on
either port, whatever `LIVE` is, and changes nothing. -/

namespace Sys2Proof.Machine

/-- Opcode 0x00 (`30_encoding.md` R77): an all-zero record is not an operation. -/
def execReserved00 (p : Port) (s : State) : Outcome := s.badCommand p

/-- Opcodes 0x04 to 0x07 (`30_encoding.md` R77): 0x04 is set aside for a phase reset the hardware does
not have. -/
def execReserved04To07 (p : Port) (_low : BitVec 2) (s : State) : Outcome := s.badCommand p

/-- Opcodes 0x08 to 0x0F (`30_encoding.md` R77). -/
def execReserved08To0F (p : Port) (_low : BitVec 3) (s : State) : Outcome := s.badCommand p

/-- Opcodes 0x14 to 0x17 (`30_encoding.md` R77). -/
def execReserved14To17 (p : Port) (_low : BitVec 2) (s : State) : Outcome := s.badCommand p

/-- Opcodes 0x18 to 0x1F (`30_encoding.md` R77). -/
def execReserved18To1F (p : Port) (_low : BitVec 3) (s : State) : Outcome := s.badCommand p

/-- Opcodes 0x20 to 0x3F (`30_encoding.md` R77). -/
def execReserved20To3F (p : Port) (_low : BitVec 5) (s : State) : Outcome := s.badCommand p

/-- Opcodes 0x40 to 0x7F (`30_encoding.md` R77). -/
def execReserved40To7F (p : Port) (_low : BitVec 6) (s : State) : Outcome := s.badCommand p

/-- Opcodes 0x80 to 0xFF (`30_encoding.md` R77). -/
def execReserved80ToFF (p : Port) (_low : BitVec 7) (s : State) : Outcome := s.badCommand p

/-- A non-zero reserved field (`30_encoding.md` R77 case (a)). -/
def execReservedRsvNonzero (p : Port) (_rsv : BitVec 24) (_opc : BitVec 8) (s : State) : Outcome :=
  s.badCommand p

end Sys2Proof.Machine
end

