-- ==== Sys2Proof/Machine/Dispatch.lean ====
section
/-! DEFINITION. One arm per instruction. -/

namespace Sys2Proof.Machine

def exec (i : Instr) (s : State) : Host.Outcome State Fault Refusal :=
  match i with
  | .create p => Sys2Proof.Machine.execCreate p s
  | .release p => Sys2Proof.Machine.execRelease p s
  | .proc p ib ob len ic oc rate => Sys2Proof.Machine.execProc p ib ob len ic oc rate s
  | .set p index value => Sys2Proof.Machine.execSet p index value s
  | .get p index => Sys2Proof.Machine.execGet p index s
  | .desc p index => Sys2Proof.Machine.execDesc p index s
  | .getbuf p name buffer num => Sys2Proof.Machine.execGetbuf p name buffer num s
  | .reserved00 p => Sys2Proof.Machine.execReserved00 p s
  | .reserved04To07 p low => Sys2Proof.Machine.execReserved04To07 p low s
  | .reserved08To0F p low => Sys2Proof.Machine.execReserved08To0F p low s
  | .reserved14To17 p low => Sys2Proof.Machine.execReserved14To17 p low s
  | .reserved18To1F p low => Sys2Proof.Machine.execReserved18To1F p low s
  | .reserved20To3F p low => Sys2Proof.Machine.execReserved20To3F p low s
  | .reserved40To7F p low => Sys2Proof.Machine.execReserved40To7F p low s
  | .reserved80ToFF p low => Sys2Proof.Machine.execReserved80ToFF p low s
  | .reservedRsvNonzero p rsv opc => Sys2Proof.Machine.execReservedRsvNonzero p rsv opc s

end Sys2Proof.Machine
end

