-- ==== Sys2Proof/Machine/Agents.lean ====
section
/-! DEFINITION. The agents, what each does when it moves, and which moves next
(`60_exceptions.md` R190, R191; `70_reset_and_hazards.md` R212). -/

namespace Sys2Proof.Machine

/-- Whether the host may make a move on port `p` now (`70_reset_and_hazards.md` R205, R206, R212). It
has no move that issues a `PROC` whose reads are not all inside the region it lent
(`93_implementation_defined.md` U3, H7; log 8). -/
def State.hostMay (s : State) (p : Port) : HostMove → Bool
  | .issue cw => s.portFree p && (p != .main || callCovered cw)
  | .store addr _ => !s.lent addr
  | .reset => true

/-- What a move of the host does. -/
def State.hostMove (s : State) (p : Port) : HostMove → State
  | .issue cw => s.place p cw
  | .store addr v => s.setMem (s.mem.writeWord addr v)
  | .reset => s.hardReset

/-- The host's next move on port `p` is taken off its list. -/
def State.popTodo (s : State) (p : Port) : State :=
  s.setPort p { s.port p with todo := (s.port p).todo.tail }

/-- Which agents have a step enabled (`60_exceptions.md` R190, R191): the main agent when `MAIN` holds
a command not yet started, the engine while `ENG.RUN = 1`, the control agent when `CTRL` holds a
command, and the host where its next move is open to it. -/
def State.enabled (s : State) : Agent → Bool
  | .host p =>
    match (s.port p).todo with
    | m :: _ => s.hostMay p m
    | [] => false
  | .main => s.main.cmd.isSome && !s.eng.run
  | .engine => s.eng.run
  | .control => s.ctrl.cmd.isSome

/-- The agents with a step enabled. -/
def State.enabledAgents (s : State) : List Agent :=
  [Agent.host .main, Agent.host .ctrl, Agent.main, Agent.engine, Agent.control].filter s.enabled

/-- The next agent where the schedule does not say: the one enabled agent, or a free choice between
several, which draws one free value (log 7). None: the core is idle (`60_exceptions.md` R196). -/
def State.chooseFree (s : State) : Option (Agent × State) :=
  match s.enabledAgents with
  | [] => none
  | [a] => some (a, s)
  | a :: b :: rest =>
    some ((a :: b :: rest).getD (Config.freeChoice s.draw % (rest.length + 2)) a,
      { s with draw := s.draw + 1 })

/-- The agent that moves next, and the state it moves in: the schedule's next agent if it is enabled,
else as `State.chooseFree` says. The schedule's entry is used up. -/
def State.choose (s : State) : Option (Agent × State) :=
  match s.schedule with
  | a :: rest =>
    if s.enabled a then some (a, { s with schedule := rest })
    else ({ s with schedule := rest } : State).chooseFree
  | [] => s.chooseFree

/-- The step of the host on port `p`. -/
def hostStep (p : Port) (s : State) : Outcome :=
  match (s.port p).todo with
  | m :: _ => .next ((s.popTodo p).hostMove p m)
  | [] => .next s

/-- The step that serves the command held by port `p`: the decoded instruction is executed. -/
def serveStep (p : Port) (s : State) : Outcome :=
  match (s.port p).cmd with
  | some cw => exec (decode p cw) s
  | none => .next s

/-- The step of an agent. -/
def agentStep (a : Agent) (s : State) : Outcome :=
  match a with
  | .host p => hostStep p s
  | .main => serveStep .main s
  | .engine => engineStep s
  | .control => serveStep .ctrl s

/-- The agent that serves port `p`. -/
def servingAgent : Port → Agent
  | .main => .main
  | .ctrl => .control

/-- The state with record `cw` placed on port `p`, and the agent that serves it next to move. Port
`MAIN` holds an unserved command only while no `PROC` is in flight, so a running one is dropped there;
the schedule is set only where another agent is enabled too. -/
def State.withRecord (s : State) (p : Port) (cw : Record) : State :=
  let idle := match p with
    | .main => { s with eng := { s.eng with run := false } }
    | .ctrl => s
  let placed := idle.place p cw
  if placed.enabledAgents = [servingAgent p] then placed
  else { placed with schedule := servingAgent p :: placed.schedule }

end Sys2Proof.Machine
end

