-- ==== Sys2Proof/Machine/Step.lean ====
section
/-! DEFINITION. One step of the machine. -/

namespace Sys2Proof.Machine

/-- One atomic step of one agent (`00_scope.md` R12; `60_exceptions.md` R191). With no step enabled
the core is idle and its state is held (`60_exceptions.md` R196; DESIGN CHOICE, log 17). -/
def step (s : State) : Host.Outcome State Fault Refusal :=
  match s.choose with
  | some (a, t) => agentStep a t
  | none => .next s

/-- The state with a command, seen as one number of `nbits` bits numbered as the opcode table numbers
them, placed on the port that serves it, so that the next step runs it (log 12). -/
def State.withFetchWord (s : State) (nbits w : Nat) : State :=
  s.withRecord (servingPort (tableWord nbits w 0)) (tableRecord nbits w)

end Sys2Proof.Machine
end

