-- ==== Sys2Proof/Safety.lean ====
section
/-! DEFINITION. What counts as a safe state and a safe run, and the terms the statements use. -/

namespace Sys2Proof.Machine

/-! ### Frames -/

/-- Every byte of the sample memory reads as before. -/
def SameMemory (s t : State) : Prop := ∀ a, t.mem.readByte a = s.mem.readByte a

/-- The core's own state, the memory and the interleaving are as before; the ports are not spoken of. -/
def SameButPorts (s t : State) : Prop :=
  t.live = s.live ∧ t.p0 = s.p0 ∧ t.p1 = s.p1 ∧ t.p2 = s.p2 ∧ t.phaseS = s.phaseS ∧
  t.phaseC = s.phaseC ∧ t.eng = s.eng ∧ t.rom = s.rom ∧ SameMemory s t ∧
  t.schedule = s.schedule ∧ t.draw = s.draw

/-- Nothing happened but the answer `r` on port `p`: its command is gone, the other port and
everything else are as before. -/
def AnswersOnly (s t : State) (p : Port) (r : Response) : Prop :=
  t.port p = ⟨none, some r, (s.port p).todo⟩ ∧
  (∀ q, q ≠ p → t.port q = s.port q) ∧ SameButPorts s t

/-! ### Encodings -/

/-- A reserved encoding on a port, in the words of `30_encoding.md` R77. -/
def IsReserved (p : Port) (cw : Record) : Prop :=
  cw.cw0.extractLsb' 8 24 ≠ 0 ∨
  cw.cw0.extractLsb' 0 8 ∉ ([0x01, 0x02, 0x03, 0x10, 0x11, 0x12, 0x13] : List (BitVec 8)) ∨
  (p = .ctrl ∧ cw.cw0.extractLsb' 0 8 ∈ ([0x01, 0x02, 0x03] : List (BitVec 8))) ∨
  (p = .main ∧ cw.cw0.extractLsb' 0 8 ∈ ([0x10, 0x11, 0x12, 0x13] : List (BitVec 8)))

/-- Two records that agree on the header and on every operand word that has an effect
(`30_encoding.md` R62; `43_oscillator_mixer.md` R157; `44_buffer_query.md` R171). -/
def SameUsedWords (x y : Record) : Prop :=
  x.cw0 = y.cw0 ∧
  (x.cw0 = 0x00000003 → x.cw1 = y.cw1 ∧ x.cw2 = y.cw2 ∧ x.cw3 = y.cw3 ∧ x.cw5 = y.cw5 ∧ x.cw6 = y.cw6) ∧
  (x.cw0 = 0x00000010 → x.cw1 = y.cw1 ∧ x.cw2 = y.cw2) ∧
  (x.cw0 = 0x00000011 → x.cw1 = y.cw1) ∧
  (x.cw0 = 0x00000012 → x.cw1 = y.cw1)

/-- Whether a command is one of the seven operations on its own port (`30_encoding.md` R64). -/
def served : Instr → Bool
  | .create p => p == .main
  | .release p => p == .main
  | .proc p _ _ _ _ _ _ => p == .main
  | .set p _ _ => p == .ctrl
  | .get p _ => p == .ctrl
  | .desc p _ => p == .ctrl
  | .getbuf p _ _ _ => p == .ctrl
  | .reserved00 _ => false
  | .reserved04To07 _ _ => false
  | .reserved08To0F _ _ => false
  | .reserved14To17 _ _ => false
  | .reserved18To1F _ _ => false
  | .reserved20To3F _ _ => false
  | .reserved40To7F _ _ => false
  | .reserved80ToFF _ _ => false
  | .reservedRsvNonzero _ _ _ => false

/-- Whether a command holds an index its operation does not accept, in the words of
`60_exceptions.md` R177. -/
def badIndex : Instr → Prop
  | .set _ index _ => index.toInt < 0 ∨ index.toInt > 2
  | .get _ index => index.toInt < 0 ∨ index.toInt > 2
  | .desc _ index => index.toInt < 0 ∨ index.toInt ≥ 2
  | .create _ => False
  | .release _ => False
  | .proc _ _ _ _ _ _ _ => False
  | .getbuf _ _ _ _ => False
  | .reserved00 _ => False
  | .reserved04To07 _ _ => False
  | .reserved08To0F _ _ => False
  | .reserved14To17 _ _ => False
  | .reserved18To1F _ _ => False
  | .reserved20To3F _ _ => False
  | .reserved40To7F _ _ => False
  | .reserved80ToFF _ _ => False
  | .reservedRsvNonzero _ _ _ => False

/-! ### Invariants -/

/-- The sample memory is in canonical form. -/
def MemoryCanonical (s : State) : Prop := s.mem.wf = true

/-- `DESCROM` holds the ten words of `10_state.md` R31. -/
def RomFixed (s : State) : Prop :=
  s.rom.frequency = ⟨0x00000000, 0x46AC4400, 0x447A0000, 0x3F800000, 0x40400000⟩ ∧
  s.rom.mix = ⟨0x00000000, 0x3F800000, 0x3F000000, 0x3F800000, 0x3F800000⟩

/-- While a `PROC` is in flight port `MAIN` holds it, the engine's addresses and counts are its
operands, and the counters are in range (`10_state.md` R28, R32; `40_numerics.md` R104). -/
def EngineCoherent (s : State) : Prop :=
  s.eng.run = true → ∃ cw, s.main.cmd = some cw ∧ cw.cw0 = 0x00000003 ∧
    s.eng.ib = cw.cw1 ∧ s.eng.ob = cw.cw2 ∧ s.eng.len = cw.cw3 ∧ s.eng.oc = cw.cw5 ∧
    s.eng.n.toNat ≤ s.eng.len.toNat ∧ s.eng.i.toNat ≤ s.eng.oc.toNat ∧
    (s.eng.n = s.eng.len → s.eng.i = 0)

/-- A response the core can have given (`30_encoding.md` R65, R66): one of the four codes, with no
data where the code is not `Ok`. -/
def LegalResponse (r : Response) : Prop :=
  r.res = 0x00000000 ∨
  ((r.res = 0x00000001 ∨ r.res = 0x00000002 ∨ r.res = 0x00000003) ∧
    r.d1 = 0 ∧ r.d2 = 0 ∧ r.d3 = 0 ∧ r.d4 = 0 ∧ r.d5 = 0)

/-- A port that holds a command has no response pending, and a response pending is a legal one
(`10_state.md` R32; `30_encoding.md` R65, R66). -/
def PortsLegal (s : State) : Prop :=
  ∀ p, ((s.port p).cmd.isSome = true → (s.port p).resp = none) ∧
    ∀ r, (s.port p).resp = some r → LegalResponse r

/-- Every word the `PROC` held by port `MAIN` reads is lent to it (`20_memory.md` R51;
`93_implementation_defined.md` U3; log 16). -/
def CallCovered (s : State) : Prop := ∀ cw, s.main.cmd = some cw → callCovered cw = true

/-! ### The engine's run -/

/-- `k` engine steps, stopping at a fault. -/
def engineRun : Nat → State → Outcome
  | 0, s => .next s
  | k + 1, s =>
    match engineStep s with
    | .next t => engineRun k t
    | .fault f => .fault f
    | .refused r => .refused r

/-- How many engine steps a running `PROC` still takes: one per channel and one per frame that is
left, and the done step (`43_oscillator_mixer.md` R145). -/
def Eng.stepsLeft (e : Eng) : Nat :=
  (e.len.toNat - e.n.toNat) * (e.oc.toNat + 1) - e.i.toNat + 1

/-- The phase pair after `k` frames of angular step `w` (`43_oscillator_mixer.md` R154). -/
def phaseAfter (w : Word) : Nat → Word × Word → Word × Word
  | 0, sc => sc
  | k + 1, sc => phaseAfter w k (advance sc.1 sc.2 w)

/-- Whether every one of the `count` words from `base` has contents. -/
def Readable (m : Memory) (base : Word) (count : Nat) : Prop :=
  ∀ k < count, ∃ x, m.readWord (base + BitVec.ofNat 32 k) = some x

/-- While a `PROC` is in flight every word it reads has contents (`20_memory.md` R50, R51). -/
def InputReadable (s : State) : Prop :=
  s.eng.run = true → Readable s.mem s.eng.ib (s.eng.len.toNat * s.eng.oc.toNat)

/-- Two regions of `count` words coincide or have no word in common (`43_oscillator_mixer.md` R154). -/
def InPlaceOrDisjoint (ib ob : Word) (count : Nat) : Prop :=
  ib = ob ∨ ∀ j < count, ∀ k < count, ib + BitVec.ofNat 32 j ≠ ob + BitVec.ofNat 32 k

/-! ### Runs -/


/-- A step of agent `a` from `u` that neither writes the cell `index` nor ends or begins an instance:
no `SET` of that index, no `CREATE`, no `RELEASE`, no reset (`42_parameter_store.md` R126). -/
def Quiet (index : Word) (a : Agent) (u : State) : Prop :=
  (∀ p, a = .host p → (u.port p).todo.head? ≠ some .reset) ∧
  (∀ cw, a = .main → u.main.cmd = some cw →
    decode .main cw ≠ .create .main ∧ decode .main cw ≠ .release .main) ∧
  (∀ cw, a = .control → u.ctrl.cmd = some cw → ∀ v, decode .ctrl cw ≠ .set .ctrl index v)

/-- A run of the machine all of whose steps are quiet for the cell `index`. -/
inductive QuietRun (index : Word) : State → State → Prop where
  | refl (s : State) : QuietRun index s s
  | tail {s t u v : State} {a : Agent} (before : QuietRun index s t)
      (chosen : t.choose = some (a, u)) (quiet : Quiet index a u)
      (moved : agentStep a u = .next v) : QuietRun index s v

/-- A run is over when every command has its response, `ENG.RUN = 0`, both ports are free and the
host has nothing more to do (`70_reset_and_hazards.md` R214). -/
def RunOver (s : State) : Prop :=
  s.main.cmd = none ∧ s.ctrl.cmd = none ∧ s.eng.run = false ∧ s.main.todo = [] ∧ s.ctrl.todo = []

/-- A state whose next step is no fault. -/
def SafeStep (s : State) : Prop := ∀ f, step s ≠ .fault f

end Sys2Proof.Machine
end

