-- ==== Sys2Proof/Certificates/Slice0/Obligations.lean ====
section
/-! DEFINITION. The statements about the machine, for the provers. -/

open Sys2Proof Sys2Proof.Machine

/-! ### Encoding -/

/-- Decoding the record an instruction encodes to, on the port it came from, gives it back
(`30_encoding.md` R61, R69 to R77). -/
def Obligations.DecodeEncodeAgree : Prop :=
  ∀ i : Instr, i.wellFormed = true → decode i.port (encode i) = i

/-- Every record on either port decodes to a well-formed instruction of that port, whose encoding has
the record's header word and every operand word the instruction names, `in_channels` of `PROC` and the
three words of `GETBUF` included, and decodes alike: no header bit and no named operand is dropped
(`30_encoding.md` R60, R68, R78). -/
def Obligations.DecodingKeepsHeaderAndOperands : Prop :=
  ∀ (p : Port) (cw : Record), (decode p cw).wellFormed = true ∧ (decode p cw).port = p ∧
    (encode (decode p cw)).cw0 = cw.cw0 ∧ decode p (encode (decode p cw)) = decode p cw ∧
    SameUsedWords (encode (decode p cw)) cw ∧
    (cw.cw0 = 0x00000003 → (encode (decode p cw)).cw4 = cw.cw4) ∧
    (cw.cw0 = 0x00000013 → (encode (decode p cw)).cw1 = cw.cw1 ∧
      (encode (decode p cw)).cw2 = cw.cw2 ∧ (encode (decode p cw)).cw3 = cw.cw3)

/-- Operand words an operation does not use, `in_channels` of `PROC` and the three operands of
`GETBUF` have no effect (`30_encoding.md` R62). -/
def Obligations.IgnoredWordsHaveNoEffect : Prop :=
  ∀ (p : Port) (x y : Record) (s : State), SameUsedWords x y →
    exec (decode p x) s = exec (decode p y) s

/-- Words written out from the opcode map and from the worked encodings of `30_encoding.md` R69, R82
decode to what they stand for. -/
def Obligations.WorkedEncodingsDecode : Prop :=
  decode .main ⟨0x00000001, 0, 0, 0, 0, 0, 0⟩ = .create .main ∧
  decode .main ⟨0x00000002, 0, 0, 0, 0, 0, 0⟩ = .release .main ∧
  decode .main ⟨0x00000003, 0x00001000, 0x00002000, 4, 1, 1, 0x472C4400⟩ =
    .proc .main 0x1000 0x2000 4 1 1 0x472C4400 ∧
  decode .ctrl ⟨0x00000010, 1, 0x3E800000, 0, 0, 0, 0⟩ = .set .ctrl 1 0x3E800000 ∧
  decode .ctrl ⟨0x00000011, 0xFFFFFFFF, 0, 0, 0, 0, 0⟩ = .get .ctrl 0xFFFFFFFF ∧
  decode .ctrl ⟨0x00000012, 1, 0, 0, 0, 0, 0⟩ = .desc .ctrl 1 ∧
  decode .ctrl ⟨0x00000013, 7, 0x3000, 0x100, 0, 0, 0⟩ = .getbuf .ctrl 7 0x3000 0x100 ∧
  decode .main ⟨0x00000004, 0, 0, 0, 0, 0, 0⟩ = .reserved04To07 .main 0 ∧
  decode .ctrl ⟨0x000000FF, 0, 0, 0, 0, 0, 0⟩ = .reserved80ToFF .ctrl 0x7F ∧
  decode .main ⟨0x00000101, 0, 0, 0, 0, 0, 0⟩ = .reservedRsvNonzero .main 1 1

/-- A reserved encoding on a port, in the words of the rule, answers `BadCommand` in one step and
changes nothing, whatever `LIVE` is (`30_encoding.md` R77). -/
def Obligations.ReservedEncodingAnswersBadCommand : Prop :=
  ∀ (p : Port) (cw : Record) (s : State), IsReserved p cw →
    ∃ t, exec (decode p cw) s = .next t ∧ AnswersOnly s t p ⟨0x00000003, 0, 0, 0, 0, 0⟩

/-- Each reserved row of the opcode table completes with `BadCommand` on either port
(`30_encoding.md` R77). -/
def Obligations.ReservedRowsComplete : Prop :=
  ∀ (p : Port) (s : State) (b2 : BitVec 2) (b3 : BitVec 3) (b5 : BitVec 5) (b6 : BitVec 6)
    (b7 : BitVec 7) (rsv : BitVec 24) (opc : BitVec 8), ∃ t,
    AnswersOnly s t p ⟨0x00000003, 0, 0, 0, 0, 0⟩ ∧
    exec (.reserved00 p) s = .next t ∧ exec (.reserved04To07 p b2) s = .next t ∧
    exec (.reserved08To0F p b3) s = .next t ∧ exec (.reserved14To17 p b2) s = .next t ∧
    exec (.reserved18To1F p b3) s = .next t ∧ exec (.reserved20To3F p b5) s = .next t ∧
    exec (.reserved40To7F p b6) s = .next t ∧ exec (.reserved80ToFF p b7) s = .next t ∧
    exec (.reservedRsvNonzero p rsv opc) s = .next t

/-! ### Reset -/

/-- Right after reset: no instance, no `PROC` in flight, both ports free with no response pending,
`DESCROM` at its constants, and nothing to do until the host places a command
(`10_state.md` R34; `70_reset_and_hazards.md` R201). That a step taken then answers the same state is
the model's choice (log 17) for the state an idle core holds (`60_exceptions.md` R196). -/
def Obligations.ResetIsIdle : Prop :=
  State.reset.live = false ∧ State.reset.eng.run = false ∧
  State.reset.main.cmd = none ∧ State.reset.main.resp = none ∧
  State.reset.ctrl.cmd = none ∧ State.reset.ctrl.resp = none ∧ RomFixed State.reset ∧
  State.reset.enabledAgents = [] ∧ step State.reset = .next State.reset

/-- The reset event, made by either caller of the host: no instance, the engine stopped, both ports
free and their commands discarded without a response, memory, `DESCROM` and the host's remaining moves
as they were (`70_reset_and_hazards.md` R200, R202). Of `P`, `S`, `C` and the other `ENG` fields, which
become unspecified, it says nothing. -/
def Obligations.ResetEventDiscardsCommands : Prop :=
  ∀ (s : State) (p : Port) (rest : List HostMove), (s.port p).todo = .reset :: rest →
    ∃ t, agentStep (.host p) s = .next t ∧ t.live = false ∧ t.eng.run = false ∧
      (∀ q, (t.port q).cmd = none ∧ (t.port q).resp = none) ∧ (t.port p).todo = rest ∧
      (∀ q, q ≠ p → (t.port q).todo = (s.port q).todo) ∧ t.rom = s.rom ∧ SameMemory s t

/-! ### Life cycle -/

/-- `CREATE` in any state, live or not: the defaults, the rest phase, `LIVE`, the answer `Ok`, and
nothing else but `P[2]`, which becomes unspecified (`41_lifecycle.md` R111). -/
def Obligations.CreateInitialisesTheInstance : Prop :=
  ∀ s : State, ∃ t, exec (.create .main) s = .next t ∧
    t.live = true ∧ t.p0 = 0x447A0000 ∧ t.p1 = 0x3F000000 ∧ t.phaseS = 0x00000000 ∧
    t.phaseC = 0x3F800000 ∧ t.main = ⟨none, some ⟨0, 0, 0, 0, 0, 0⟩, s.main.todo⟩ ∧
    t.ctrl = s.ctrl ∧ t.eng = s.eng ∧ t.rom = s.rom ∧ SameMemory s t ∧ t.schedule = s.schedule

/-- `RELEASE` of an instance ends it and answers `Ok`, and touches neither memory, `DESCROM`, `ENG` nor
the other port; `P`, `S` and `C` become unspecified. With no instance it answers `NotLive` and changes
nothing (`41_lifecycle.md` R112). -/
def Obligations.ReleaseEndsTheInstance : Prop :=
  ∀ s : State,
    (s.live = true → ∃ t, exec (.release .main) s = .next t ∧ t.live = false ∧
      t.main = ⟨none, some ⟨0, 0, 0, 0, 0, 0⟩, s.main.todo⟩ ∧ t.ctrl = s.ctrl ∧ t.eng = s.eng ∧
      t.rom = s.rom ∧ SameMemory s t ∧ t.schedule = s.schedule) ∧
    (s.live = false → ∃ t, exec (.release .main) s = .next t ∧
      AnswersOnly s t .main ⟨0x00000002, 0, 0, 0, 0, 0⟩)

/-! ### Parameter store -/

/-- The two index checks on the unsigned reading: `SET` and `GET` accept exactly 0, 1 and 2, `DESC`
exactly 0 and 1 (`40_numerics.md` R101, R102; `42_parameter_store.md` R121). -/
def Obligations.IndexChecksAcceptExactly : Prop :=
  ∀ w : Word, (idxValid w = true ↔ w = 0 ∨ w = 1 ∨ w = 2) ∧
    (descValid w = true ↔ w = 0 ∨ w = 1)

/-- `SET` with an instance: an accepted index has exactly its cell replaced by the raw word and answers
`Ok`; any other answers `InvalidIndex` and changes nothing. Without an instance it answers `NotLive`
(`42_parameter_store.md` R124). -/
def Obligations.SetWritesOneCell : Prop :=
  ∀ (s : State) (v : Word),
    (s.live = true →
      exec (.set .ctrl 0 v) s =
        .next { s with p0 := v, ctrl := ⟨none, some ⟨0, 0, 0, 0, 0, 0⟩, s.ctrl.todo⟩ } ∧
      exec (.set .ctrl 1 v) s =
        .next { s with p1 := v, ctrl := ⟨none, some ⟨0, 0, 0, 0, 0, 0⟩, s.ctrl.todo⟩ } ∧
      exec (.set .ctrl 2 v) s =
        .next { s with p2 := v, ctrl := ⟨none, some ⟨0, 0, 0, 0, 0, 0⟩, s.ctrl.todo⟩ } ∧
      ∀ index : Word, index.toInt < 0 ∨ index.toInt > 2 →
        ∃ t, exec (.set .ctrl index v) s = .next t ∧
          AnswersOnly s t .ctrl ⟨0x00000001, 0, 0, 0, 0, 0⟩) ∧
    (s.live = false → ∀ index : Word, ∃ t, exec (.set .ctrl index v) s = .next t ∧
      AnswersOnly s t .ctrl ⟨0x00000002, 0, 0, 0, 0, 0⟩)

/-- `GET` with an instance: an accepted index answers its cell, then 0 for the empty display string; any
other answers `InvalidIndex`. Without an instance it answers `NotLive`. It never changes state
(`42_parameter_store.md` R125, R127). -/
def Obligations.GetAnswersTheCell : Prop :=
  ∀ s : State,
    (s.live = true →
      (∃ t, exec (.get .ctrl 0) s = .next t ∧ AnswersOnly s t .ctrl ⟨0, s.p0, 0, 0, 0, 0⟩) ∧
      (∃ t, exec (.get .ctrl 1) s = .next t ∧ AnswersOnly s t .ctrl ⟨0, s.p1, 0, 0, 0, 0⟩) ∧
      (∃ t, exec (.get .ctrl 2) s = .next t ∧ AnswersOnly s t .ctrl ⟨0, s.p2, 0, 0, 0, 0⟩) ∧
      ∀ index : Word, index.toInt < 0 ∨ index.toInt > 2 →
        ∃ t, exec (.get .ctrl index) s = .next t ∧
          AnswersOnly s t .ctrl ⟨0x00000001, 0, 0, 0, 0, 0⟩) ∧
    (s.live = false → ∀ index : Word, ∃ t, exec (.get .ctrl index) s = .next t ∧
      AnswersOnly s t .ctrl ⟨0x00000002, 0, 0, 0, 0, 0⟩)

/-- `DESC` with an instance answers the five words of the descriptor, whose values are those of
`10_state.md` R31; index 2, like every other, answers `InvalidIndex`. Without an instance it answers
`NotLive` (`42_parameter_store.md` R128). `RomFixed` is an invariant of its own. -/
def Obligations.DescAnswersTheDescriptor : Prop :=
  ∀ s : State, RomFixed s →
    (s.live = true →
      (∃ t, exec (.desc .ctrl 0) s = .next t ∧ AnswersOnly s t .ctrl
        ⟨0, 0x00000000, 0x46AC4400, 0x447A0000, 0x3F800000, 0x40400000⟩) ∧
      (∃ t, exec (.desc .ctrl 1) s = .next t ∧ AnswersOnly s t .ctrl
        ⟨0, 0x00000000, 0x3F800000, 0x3F000000, 0x3F800000, 0x3F800000⟩) ∧
      ∀ index : Word, index.toInt < 0 ∨ index.toInt ≥ 2 →
        ∃ t, exec (.desc .ctrl index) s = .next t ∧
          AnswersOnly s t .ctrl ⟨0x00000001, 0, 0, 0, 0, 0⟩) ∧
    (s.live = false → ∀ index : Word, ∃ t, exec (.desc .ctrl index) s = .next t ∧
      AnswersOnly s t .ctrl ⟨0x00000002, 0, 0, 0, 0, 0⟩)

/-- After a `SET` of a cell answered `Ok`, any run of the machine with no `SET` of that cell, no
`CREATE`, no `RELEASE` and no reset leaves `GET` answering `Ok` with that word, bit for bit, for all
three cells and every word (`42_parameter_store.md` R126). Engine steps, host steps and every other
command may come between. -/
def Obligations.GetReturnsWhatSetWrote : Prop :=
  ∀ (s t u : State) (index v : Word), index = 0 ∨ index = 1 ∨ index = 2 → s.live = true →
    exec (.set .ctrl index v) s = .next t → QuietRun index t u →
    ∃ w, exec (.get .ctrl index) u = .next w ∧
      w.ctrl = ⟨none, some ⟨0x00000000, v, 0, 0, 0, 0⟩, u.ctrl.todo⟩

/-! ### Buffer query -/

/-- `GETBUF` with an instance answers `Ok` for every value of its three operands and does nothing;
without one it answers `NotLive` (`44_buffer_query.md` R171). -/
def Obligations.GetbufDoesNothing : Prop :=
  ∀ (s : State) (name buffer num : Word),
    (s.live = true → ∃ t, exec (.getbuf .ctrl name buffer num) s = .next t ∧
      AnswersOnly s t .ctrl ⟨0, 0, 0, 0, 0, 0⟩) ∧
    (s.live = false → ∃ t, exec (.getbuf .ctrl name buffer num) s = .next t ∧
      AnswersOnly s t .ctrl ⟨0x00000002, 0, 0, 0, 0, 0⟩)

/-! ### Result codes, over all instructions -/

/-- The code of every command, by the priority of the tests: a command not served on its port answers
`BadCommand`, else without an instance `NotLive` (`CREATE` apart), else with a bad index
`InvalidIndex`, each changing nothing; else `PROC` starts the engine and keeps its port, its answer
still to come, and every other command is answered `Ok` in the step and its port is free
(`60_exceptions.md` R177, R183). -/
def Obligations.ResultCodePriority : Prop :=
  ∀ (i : Instr) (s : State),
    (served i = false → ∃ t, exec i s = .next t ∧
      AnswersOnly s t i.port ⟨0x00000003, 0, 0, 0, 0, 0⟩) ∧
    (served i = true → i ≠ .create .main → s.live = false → ∃ t, exec i s = .next t ∧
      AnswersOnly s t i.port ⟨0x00000002, 0, 0, 0, 0, 0⟩) ∧
    (served i = true → s.live = true → badIndex i → ∃ t, exec i s = .next t ∧
      AnswersOnly s t i.port ⟨0x00000001, 0, 0, 0, 0, 0⟩) ∧
    (∀ ib ob len ic oc rate, i = .proc .main ib ob len ic oc rate → s.live = true →
      ∃ t, exec i s = .next t ∧ t.eng.run = true ∧ t.main = s.main) ∧
    (served i = true → s.live = true ∨ i = .create .main → ¬ badIndex i →
      (∀ ib ob len ic oc rate, i ≠ .proc .main ib ob len ic oc rate) →
      ∃ t r, exec i s = .next t ∧ t.port i.port = ⟨none, some r, (s.port i.port).todo⟩ ∧
        r.res = 0x00000000)

/-- A command that is answered with a code other than `Ok` leaves every register, the phase, `ENG`,
`LIVE`, memory and the other port as they were, and its data words are 0 (`42_parameter_store.md` R131;
`60_exceptions.md` R182; `30_encoding.md` R65). A held command has no response pending, by
`PortsLegal`. -/
def Obligations.FailedCommandLeavesNoTrace : Prop :=
  ∀ (i : Instr) (s t : State) (r : Response), (s.port i.port).resp = none →
    exec i s = .next t → (t.port i.port).resp = some r → r.res ≠ 0x00000000 →
    AnswersOnly s t i.port r ∧ r.d1 = 0 ∧ r.d2 = 0 ∧ r.d3 = 0 ∧ r.d4 = 0 ∧ r.d5 = 0

/-- Every step keeps every response one of the four codes with no data on a failure, and gives a port
that holds a command no response (`30_encoding.md` R65, R66; `10_state.md` R32). -/
def Obligations.StepKeepsPortsLegal : Prop :=
  ∀ s t : State, PortsLegal s → step s = .next t → PortsLegal t

/-- No command touches the sample memory, `DESCROM` or the other port, at the step that executes it:
`PROC` accesses memory only in its engine steps (`20_memory.md` R40; `44_buffer_query.md` R172;
`42_parameter_store.md` R130). -/
def Obligations.CommandsTouchNoMemory : Prop :=
  ∀ (i : Instr) (s t : State), exec i s = .next t →
    SameMemory s t ∧ t.rom = s.rom ∧ (∀ q, q ≠ i.port → t.port q = s.port q) ∧
    t.schedule = s.schedule

/-- A parameter cell is changed only by `SET` with its index, by `CREATE`, by `RELEASE` and by the reset
event (`10_state.md` R21, R34; `41_lifecycle.md` R111, R112; `70_reset_and_hazards.md` R200): a `SET`
with another index, every other command, every engine step and, in the last clause, every other step
of the machine leaves it. -/
def Obligations.CellsChangeOnlyBySetLifecycleOrReset : Prop :=
  (∀ (i : Instr) (s t : State), exec i s = .next t → i ≠ .create .main → i ≠ .release .main →
    ((∀ v, i ≠ .set .ctrl 0 v) → t.p0 = s.p0) ∧ ((∀ v, i ≠ .set .ctrl 1 v) → t.p1 = s.p1) ∧
    ((∀ v, i ≠ .set .ctrl 2 v) → t.p2 = s.p2)) ∧
  (∀ s t : State, engineStep s = .next t → t.p0 = s.p0 ∧ t.p1 = s.p1 ∧ t.p2 = s.p2) ∧
  (∀ s t : State, step s = .next t → (t.p0 = s.p0 ∧ t.p1 = s.p1 ∧ t.p2 = s.p2) ∨
    ∃ a u, s.choose = some (a, u) ∧
      ((a = .main ∧ ∃ cw, u.main.cmd = some cw ∧
          (decode .main cw = .create .main ∨ decode .main cw = .release .main)) ∨
        (a = .control ∧ ∃ cw index v, u.ctrl.cmd = some cw ∧ decode .ctrl cw = .set .ctrl index v ∧
          (index ≠ 0 → t.p0 = s.p0) ∧ (index ≠ 1 → t.p1 = s.p1) ∧ (index ≠ 2 → t.p2 = s.p2)) ∨
        ∃ p, a = .host p ∧ (u.port p).todo.head? = some .reset))

/-- The cell past the end has no effect but on `GET` of index 2: with another word in it every other
command and every engine step does the same to everything else (`10_state.md` R24). -/
def Obligations.CellPastTheEndIsIsolated : Prop :=
  (∀ (i : Instr) (s t : State) (v : Word), i ≠ .get .ctrl 2 → exec i s = .next t →
    ∃ w, exec i { s with p2 := v } = .next { t with p2 := w }) ∧
  (∀ (s t : State) (v : Word), engineStep s = .next t →
    engineStep { s with p2 := v } = .next { t with p2 := v })

/-! ### The engine -/

/-- The start step of `PROC`: with an instance it latches the operands, the angular step computed from
`P[0]`, `P[1]` and `1 - P[1]`, starts the counters at 0, sets `ENG.RUN`, gives no response and touches
nothing else; without one it answers `NotLive` (`43_oscillator_mixer.md` R142, R143, R144). -/
def Obligations.ProcStartLatches : Prop :=
  ∀ (s : State) (ib ob len ic oc rate : Word),
    (s.live = true → exec (.proc .main ib ob len ic oc rate) s = .next { s with eng :=
      ⟨true, ib, ob, len, oc,
        fmul 0x40000000 (sin32 (fdiv (fmul 0x40490FDB s.p0) rate)),
        s.p1, fsub 0x3F800000 s.p1, 0, 0⟩ }) ∧
    (s.live = false → ∃ t, exec (.proc .main ib ob len ic oc rate) s = .next t ∧
      AnswersOnly s t .main ⟨0x00000002, 0, 0, 0, 0, 0⟩)

/-- The done step: `ENG.RUN` cleared, `Ok` on `MAIN`, which is free, and the phase pair, the cells,
`LIVE`, memory and the other port kept (`43_oscillator_mixer.md` R145, R150). -/
def Obligations.DoneStepAnswersOk : Prop :=
  ∀ s : State, s.eng.n = s.eng.len → ∃ t, engineStep s = .next t ∧ t.eng.run = false ∧
    t.main = ⟨none, some ⟨0, 0, 0, 0, 0, 0⟩, s.main.todo⟩ ∧ t.ctrl = s.ctrl ∧
    t.phaseS = s.phaseS ∧ t.phaseC = s.phaseC ∧ t.live = s.live ∧ t.p0 = s.p0 ∧ t.p1 = s.p1 ∧
    t.p2 = s.p2 ∧ t.rom = s.rom ∧ SameMemory s t ∧ t.schedule = s.schedule

/-- The advance step: the recurrence with the new `s` and the old `c`, the next frame, channel 0, and
nothing else (`43_oscillator_mixer.md` R148, R149). -/
def Obligations.AdvanceStepTurnsThePhase : Prop :=
  ∀ s : State, s.eng.n ≠ s.eng.len → s.eng.i = s.eng.oc →
    engineStep s = .next { s with
      phaseS := fadd s.phaseS (fmul s.phaseC s.eng.w)
      phaseC := fsub s.phaseC (fmul (fadd s.phaseS (fmul s.phaseC s.eng.w)) s.eng.w)
      eng := { s.eng with n := s.eng.n + 1, i := 0 } }

/-- The sample step, inside the regions lent to the call (`20_memory.md` R51; which they are is log 16):
the input word of the current frame and channel is mixed with the current `s` and written at the same
offset of the output buffer, and the next channel is up (`43_oscillator_mixer.md` R146, R147;
`20_memory.md` R50). Where the step stops instead is `OnlyARefusedAccessFaults`. -/
def Obligations.SampleStepMixes : Prop :=
  ∀ (s : State) (x : Word), s.eng.n ≠ s.eng.len → s.eng.i ≠ s.eng.oc →
    s.mayRead (s.eng.ib + (s.eng.n * s.eng.oc + s.eng.i)) = true →
    s.mayWrite (s.eng.ob + (s.eng.n * s.eng.oc + s.eng.i)) = true →
    s.mem.readWord (s.eng.ib + (s.eng.n * s.eng.oc + s.eng.i)) = some x →
    engineStep s = .next { s with
      mem := s.mem.writeWord (s.eng.ob + (s.eng.n * s.eng.oc + s.eng.i))
        (fadd (fmul x s.eng.a) (fmul (fmul x s.eng.m) s.phaseS))
      eng := { s.eng with i := s.eng.i + 1 } }

/-- The frame of the sample step: the output word holds the sample, and every byte outside its four
reads as before (`43_oscillator_mixer.md` R146; `20_memory.md` R43, R44, R50). -/
def Obligations.SampleStepWritesOneWord : Prop :=
  ∀ (s t : State) (x : Word), s.eng.n ≠ s.eng.len → s.eng.i ≠ s.eng.oc →
    s.mem.readWord (s.eng.ib + (s.eng.n * s.eng.oc + s.eng.i)) = some x →
    engineStep s = .next t →
    t.mem.readWord (s.eng.ob + (s.eng.n * s.eng.oc + s.eng.i)) =
      some (mixSample x s.eng.a s.eng.m s.phaseS) ∧
    ∀ b, b < 4 * (s.eng.ob + (s.eng.n * s.eng.oc + s.eng.i)).toNat ∨
        4 * (s.eng.ob + (s.eng.n * s.eng.oc + s.eng.i)).toNat + 3 < b →
      t.mem.readByte b = s.mem.readByte b

/-- A step stops exactly where a sample step would read a word that is not lent for reading, read a
word with no contents, or write a word that is not lent for writing, each under its own name and tested
in this order; this is the model's treatment of `20_memory.md` R51 and `93_implementation_defined.md`
U3 and U5 (log 4, log 13, log 16), and the machine has no other fault. -/
def Obligations.OnlyARefusedAccessFaults : Prop :=
  ∀ (s : State) (f : Fault), step s = .fault f ↔
    ∃ u i o, s.choose = some (.engine, u) ∧ u.eng.n ≠ u.eng.len ∧ u.eng.i ≠ u.eng.oc ∧
      i = u.eng.ib + (u.eng.n * u.eng.oc + u.eng.i) ∧
      o = u.eng.ob + (u.eng.n * u.eng.oc + u.eng.i) ∧
      ((u.mayRead i = false ∧ f = .unlentRead i) ∨
        (u.mayRead i = true ∧ u.mem.readWord i = none ∧ f = .unbackedRead i) ∨
        (u.mayRead i = true ∧ (∃ x, u.mem.readWord i = some x) ∧ u.mayWrite o = false ∧
          f = .unlentWrite o))

/-- While the input words of the running `PROC` are lent and have contents no step faults, and every
step leaves them so while the `PROC` runs: it cannot fail once started (`43_oscillator_mixer.md` R159;
`20_memory.md` R51). That the words are lent is an invariant of its own, `StepKeepsTheCallCovered`. -/
def Obligations.ReadableInputNeverFaults : Prop :=
  ∀ s : State, EngineCoherent s → CallCovered s → InputReadable s →
    SafeStep s ∧ ∀ t, s.eng.run = true → step s = .next t → InputReadable t

/-- Every step keeps the words a `PROC` on `MAIN` reads inside the region lent to it: the host has no
move that issues another (`20_memory.md` R51; `93_implementation_defined.md` U3, H7). Which words are
lent is log 16, and that the host keeps the contract is log 8. -/
def Obligations.StepKeepsTheCallCovered : Prop :=
  ∀ s t : State, CallCovered s → step s = .next t → CallCovered t

/-- No step of the machine is refused: every command that can be placed has a meaning
(`30_encoding.md` R78). -/
def Obligations.NoStepIsRefused : Prop :=
  ∀ (s : State) (r : Refusal), step s ≠ .refused r

/-- Distinct frames and channels have distinct offsets while `LEN * OC` is at most `2^32`
(`43_oscillator_mixer.md` R160). -/
def Obligations.OffsetsAreDistinct : Prop :=
  ∀ len oc n i n' i' : Word, len.toNat * oc.toNat ≤ 2 ^ 32 →
    n.toNat < len.toNat → n'.toNat < len.toNat → i.toNat < oc.toNat → i'.toNat < oc.toNat →
    offset oc n i = offset oc n' i' → n = n' ∧ i = i'

/-- Each engine step of a coherent running `PROC` brings the done step nearer by exactly one, and the
last one is the done step (`43_oscillator_mixer.md` R145; `40_numerics.md` R104). -/
def Obligations.EngineStepCountsDown : Prop :=
  ∀ s t : State, EngineCoherent s → s.eng.run = true → engineStep s = .next t →
    (t.eng.run = true ∧ t.eng.stepsLeft + 1 = s.eng.stepsLeft) ∨
    (t.eng.run = false ∧ s.eng.stepsLeft = 1)

/-- A `PROC` that `MAIN` holds, whose input words are lent and have contents, in full: after the start step and exactly
`LEN * OC + LEN + 1` engine steps it has answered `Ok`, `MAIN` is free, the phase has advanced `LEN`
times, every output word is the mix of the input word of the memory it started with and the phase of
its frame, every other byte, the cells, `LIVE` and the other port are as before
(`43_oscillator_mixer.md` R154; `70_reset_and_hazards.md` R213). Buffers coincide or do not overlap, and
no offset repeats; which words are lent is log 16. -/
def Obligations.ProcComputesTheBlock : Prop :=
  ∀ (s t : State) (ib ob len ic oc rate : Word), s.live = true →
    len.toNat * oc.toNat ≤ 2 ^ 32 → InPlaceOrDisjoint ib ob (len.toNat * oc.toNat) →
    Readable s.mem ib (len.toNat * oc.toNat) →
    s.main.cmd = some ⟨0x00000003, ib, ob, len, ic, oc, rate⟩ →
    callCovered ⟨0x00000003, ib, ob, len, ic, oc, rate⟩ = true →
    exec (.proc .main ib ob len ic oc rate) s = .next t →
    ∃ u, engineRun (len.toNat * oc.toNat + len.toNat + 1) t = .next u ∧ u.eng.run = false ∧
      u.main = ⟨none, some ⟨0, 0, 0, 0, 0, 0⟩, s.main.todo⟩ ∧ u.ctrl = s.ctrl ∧
      (u.phaseS, u.phaseC) =
        phaseAfter (angularStep s.p0 rate) len.toNat (s.phaseS, s.phaseC) ∧
      u.p0 = s.p0 ∧ u.p1 = s.p1 ∧ u.p2 = s.p2 ∧ u.live = s.live ∧ u.rom = s.rom ∧
      (∀ n < len.toNat, ∀ i < oc.toNat, ∀ x,
        s.mem.readWord (ib + BitVec.ofNat 32 (n * oc.toNat + i)) = some x →
        u.mem.readWord (ob + BitVec.ofNat 32 (n * oc.toNat + i)) =
          some (mixSample x (fsub 0x3F800000 s.p1) s.p1
            (phaseAfter (angularStep s.p0 rate) n (s.phaseS, s.phaseC)).1)) ∧
      (∀ b, (∀ k < len.toNat * oc.toNat,
          b < 4 * (ob + BitVec.ofNat 32 k).toNat ∨ 4 * (ob + BitVec.ofNat 32 k).toNat + 3 < b) →
        u.mem.readByte b = s.mem.readByte b)

/-- Phase continuity: where one `PROC` of `L1 + L2` frames, placed on `MAIN`, runs to its end, a `PROC` of
`L1` frames and then one of `L2` frames on the rest of the same buffers, placed in turn, run to theirs
and leave the same memory and the same phase, whether or not the buffers overlap
(`43_oscillator_mixer.md` R155). The input has at least as many channels as the output, so that every
word read is lent (`20_memory.md` R51; log 16). -/
def Obligations.TwoBlocksEqualOne : Prop :=
  ∀ (s t v : State) (ib ob len1 len2 ic oc rate : Word), s.live = true →
    len1.toNat + len2.toNat < 2 ^ 32 → oc.toNat ≤ ic.toNat →
    exec (.proc .main ib ob (len1 + len2) ic oc rate)
      (s.place .main ⟨0x00000003, ib, ob, len1 + len2, ic, oc, rate⟩) = .next t →
    engineRun ((len1.toNat + len2.toNat) * (oc.toNat + 1) + 1) t = .next v →
    ∃ t1 u1 t2 u2, exec (.proc .main ib ob len1 ic oc rate)
        (s.place .main ⟨0x00000003, ib, ob, len1, ic, oc, rate⟩) = .next t1 ∧
      engineRun (len1.toNat * (oc.toNat + 1) + 1) t1 = .next u1 ∧
      exec (.proc .main (ib + len1 * oc) (ob + len1 * oc) len2 ic oc rate)
        (u1.place .main ⟨0x00000003, ib + len1 * oc, ob + len1 * oc, len2, ic, oc, rate⟩) =
          .next t2 ∧
      engineRun (len2.toNat * (oc.toNat + 1) + 1) t2 = .next u2 ∧
      u2.mem = v.mem ∧ u2.phaseS = v.phaseS ∧ u2.phaseC = v.phaseC ∧
      u2.eng.run = false ∧ v.eng.run = false

/-- A command on `CTRL` and an engine step may be taken in either order with the same outcome: no
control step writes anything an engine step reads, and none reads anything it writes
(`43_oscillator_mixer.md` R154; `70_reset_and_hazards.md` R204; `20_memory.md` R57). -/
def Obligations.ControlStepsCommuteWithEngineSteps : Prop :=
  ∀ (i : Instr) (s : State), i.port = .ctrl → ∃ s', exec i s = .next s' ∧
    (∀ t, engineStep s = .next t → ∃ t', engineStep s' = .next t' ∧ exec i t = .next t') ∧
    (∀ f, engineStep s = .fault f → engineStep s' = .fault f)

/-! ### The whole machine -/

/-- Where the agent chosen to move serves a port that holds a record, the step is `exec` of the
instruction the record decodes to; where it is the engine, the step is the engine step. Choosing
changes only the schedule and the counter of free values. From reset, the record placed on a port is
what the next step runs (`60_exceptions.md` R190, R191). -/
def Obligations.StepRunsTheDecodedInstruction : Prop :=
  (∀ (s t : State) (cw : Record), s.choose = some (.main, t) → t.main.cmd = some cw →
    step s = exec (decode .main cw) t) ∧
  (∀ (s t : State) (cw : Record), s.choose = some (.control, t) → t.ctrl.cmd = some cw →
    step s = exec (decode .ctrl cw) t) ∧
  (∀ s t : State, s.choose = some (.engine, t) → step s = engineStep t) ∧
  (∀ (s t : State) (a : Agent), s.choose = some (a, t) →
    t = { s with schedule := t.schedule, draw := t.draw }) ∧
  (∀ (p : Port) (cw : Record), step (State.reset.place p cw) =
    exec (decode p cw) (State.reset.place p cw))

/-- Any enabled step may be taken next: for each enabled agent some schedule makes it move, and only
an enabled agent ever moves. The main agent and the engine are never both enabled
(`60_exceptions.md` R190, R191). -/
def Obligations.AnyEnabledAgentMayMove : Prop :=
  (∀ (s : State) (a : Agent), s.enabled a = true →
    ({ s with schedule := a :: s.schedule } : State).choose = some (a, s)) ∧
  (∀ (s t : State) (a : Agent), s.choose = some (a, t) → s.enabled a = true) ∧
  (∀ s : State, ¬ (s.enabled .main = true ∧ s.enabled .engine = true)) ∧
  (∀ s : State, s.choose = none → ∀ a, s.enabled a = false)

/-- A run that is over stays as it is: nothing is enabled and the core is idle, its state held
(`70_reset_and_hazards.md` R214; `60_exceptions.md` R196; the step that holds it is log 17). -/
def Obligations.FinishedRunIsIdle : Prop :=
  ∀ s : State, RunOver s → s.enabledAgents = [] ∧ step s = .next s

/-- Every step keeps the sample memory in canonical form; the form is the model's (log 4, log 6). -/
def Obligations.StepKeepsMemoryCanonical : Prop :=
  ∀ s t : State, MemoryCanonical s → step s = .next t → MemoryCanonical t

/-- No step changes `DESCROM`, the reset event included (`42_parameter_store.md` R130). -/
def Obligations.StepKeepsTheRom : Prop :=
  ∀ s t : State, step s = .next t → t.rom = s.rom

/-- Every step keeps a running `PROC` in port `MAIN`, its operands in `ENG`, and its counters in range:
neither counter can wrap (`10_state.md` R28, R32; `40_numerics.md` R104). -/
def Obligations.StepKeepsEngineCoherent : Prop :=
  ∀ s t : State, EngineCoherent s → step s = .next t → EngineCoherent t

/-- The invariants hold right after reset. -/
def Obligations.ResetMeetsTheInvariants : Prop :=
  MemoryCanonical State.reset ∧ RomFixed State.reset ∧ EngineCoherent State.reset ∧
  PortsLegal State.reset ∧ CallCovered State.reset

/-- Only four things ever change the phase pair: an advance step, `CREATE`, `RELEASE` and the reset
event (`10_state.md` R26; `70_reset_and_hazards.md` R210). -/
def Obligations.PhaseChangesOnlyByAdvanceOrLifecycle : Prop :=
  ∀ s t : State, step s = .next t → (t.phaseS = s.phaseS ∧ t.phaseC = s.phaseC) ∨
    ∃ a u, s.choose = some (a, u) ∧
      ((a = .engine ∧ u.eng.n ≠ u.eng.len ∧ u.eng.i = u.eng.oc ∧
          (t.phaseS, t.phaseC) = advance u.phaseS u.phaseC u.eng.w) ∨
        (a = .main ∧ ∃ cw, u.main.cmd = some cw ∧
          ((decode .main cw = .create .main ∧ (t.phaseS, t.phaseC) = (0x00000000, 0x3F800000)) ∨
            decode .main cw = .release .main)) ∨
        ∃ p, a = .host p ∧ (u.port p).todo.head? = some .reset)

/-- Only two things ever change the sample memory: a sample step, at the one word it writes, and a
store of the host, never into a word lent to an outstanding `PROC` (`20_memory.md` R40, R55;
`70_reset_and_hazards.md` R205). That no other master writes the memory and that the host keeps to its
contract is the model's choice (log 8), and which words are lent is read from the record (log 16). -/
def Obligations.MemoryChangesOnlyBySampleOrStore : Prop :=
  ∀ s t : State, step s = .next t → t.mem = s.mem ∨
    (∃ u, s.choose = some (.engine, u) ∧ u.eng.n ≠ u.eng.len ∧ u.eng.i ≠ u.eng.oc ∧
      ∃ y, t.mem = s.mem.writeWord (u.eng.ob + (u.eng.n * u.eng.oc + u.eng.i)) y) ∨
    (∃ p u addr v, s.choose = some (.host p, u) ∧ (u.port p).todo.head? = some (.store addr v) ∧
      s.lent addr = false ∧ t.mem = s.mem.writeWord addr v)

/-- A command held by a port is never replaced by another before the port is free, and `MAIN` takes no
command while a `PROC` is in flight (`10_state.md` R32; `70_reset_and_hazards.md` R206). -/
def Obligations.HeldCommandIsNeverReplaced : Prop :=
  (∀ (s t : State) (p : Port) (x y : Record), step s = .next t → (s.port p).cmd = some x →
    (t.port p).cmd = some y → y = x) ∧
  (∀ s t : State, step s = .next t → s.eng.run = true → t.eng.run = true →
    s.main.cmd = none → t.main.cmd = none)

/-! ### Memory -/

/-- A word write gives that word, all 32 bits, little-endian over its four bytes, and changes no other
word (`20_memory.md` R43, R44). -/
def Obligations.WordWriteReadsBack : Prop :=
  ∀ (m : Memory) (addr v : Word),
    (m.writeWord addr v).readWord addr = some v ∧
    (∀ other, other ≠ addr → (m.writeWord addr v).readWord other = m.readWord other) ∧
    (m.writeWord addr v).readByte (4 * addr.toNat) = some (v.extractLsb' 0 8) ∧
    (m.writeWord addr v).readByte (4 * addr.toNat + 3) = some (v.extractLsb' 24 8)

/-! ### Numerics -/

/-- The NaN rule: an operation with a NaN operand, an invalid case of each operation (`inf - inf`,
`0 * inf`, `0 / 0`, `inf / inf`), and `SIN32` of a NaN or an infinity give the canonical NaN, and no
operation ever gives any other NaN (`40_numerics.md` R89). -/
def Obligations.NaNResultsAreCanonical : Prop :=
  ∀ a b : Word,
    (isNaN a = true ∨ isNaN b = true →
      fadd a b = 0x7FC00000 ∧ fsub a b = 0x7FC00000 ∧ fmul a b = 0x7FC00000 ∧
      fdiv a b = 0x7FC00000) ∧
    (isInf a = true → isInf b = true →
      (signBit a ≠ signBit b → fadd a b = 0x7FC00000) ∧
      (signBit a = signBit b → fsub a b = 0x7FC00000) ∧ fdiv a b = 0x7FC00000) ∧
    ((isZero a = true ∧ isInf b = true) ∨ (isInf a = true ∧ isZero b = true) →
      fmul a b = 0x7FC00000) ∧
    (isZero a = true → isZero b = true → fdiv a b = 0x7FC00000) ∧
    (isNaN a = true ∨ isInf a = true → sin32 a = 0x7FC00000) ∧
    (isNaN (fadd a b) = true → fadd a b = 0x7FC00000) ∧
    (isNaN (fsub a b) = true → fsub a b = 0x7FC00000) ∧
    (isNaN (fmul a b) = true → fmul a b = 0x7FC00000) ∧
    (isNaN (fdiv a b) = true → fdiv a b = 0x7FC00000) ∧
    (isNaN (sin32 a) = true → sin32 a = 0x7FC00000)

/-- `round32` keeps the sign, gives a nearest datum, the one with an even significand where two are
equally near, and overflows exactly from `2^128 - 2^103` on (`40_numerics.md` R88). Magnitudes are in units of `2^-149`:
`n / d` units is the exact real, and the bound is `2^277 - 2^252` units. -/
def Obligations.RoundingIsToNearestEven : Prop :=
  ∀ (sg : Bool) (n d : Nat), 0 < d →
    signBit (round32 sg n d) = sg ∧
    (isInf (round32 sg n d) = true ↔ 2 ^ 252 * (2 ^ 25 - 1) * d ≤ n) ∧
    (isInf (round32 sg n d) = false →
      isFinite (round32 sg n d) = true ∧
      ∀ v : Word, isFinite v = true →
        ((magnitude (round32 sg n d) * d : Int) - n).natAbs ≤
          ((magnitude v * d : Int) - n).natAbs ∧
        (((magnitude (round32 sg n d) * d : Int) - n).natAbs =
            ((magnitude v * d : Int) - n).natAbs →
          magnitude v ≠ magnitude (round32 sg n d) → fracField (round32 sg n d) % 2 = 0))

/-- Addition and multiplication are commutative bit for bit (`40_numerics.md` R90, R92). -/
def Obligations.AddAndMulCommute : Prop :=
  ∀ a b : Word, fadd a b = fadd b a ∧ fmul a b = fmul b a

/-- Multiplying by 1.0 returns the other operand unchanged when it is not a NaN
(`40_numerics.md` R92). -/
def Obligations.MulByOneIsExact : Prop :=
  ∀ x : Word, isNaN x = false → fmul x 0x3F800000 = x ∧ fmul 0x3F800000 x = x

/-- Subtraction of or from a NaN is the canonical NaN, otherwise it is addition of the negation, and
`x - x` is `+0` for every finite `x` (`40_numerics.md` R91). -/
def Obligations.SubtractionLaws : Prop :=
  (∀ a b : Word, isNaN a = true ∨ isNaN b = true → fsub a b = 0x7FC00000) ∧
  (∀ a b : Word, isNaN a = false → isNaN b = false → fsub a b = fadd a (b ^^^ 0x80000000)) ∧
  (∀ x : Word, isFinite x = true → fsub x x = 0x00000000) ∧
  fsub 0x7F800000 0x7F800000 = 0x7FC00000 ∧ fsub 0x80000000 0x00000000 = 0x80000000 ∧
  fsub 0x00000000 0x80000000 = 0x00000000

/-- The properties S2 to S5 of the sine unit, whatever its free values are, with the doubling of S5
exact and at most 2.0; S1 holds because it is a function of its argument word
(`40_numerics.md` R98). -/
def Obligations.SineUnitLaws : Prop :=
  sin32 0x00000000 = 0x00000000 ∧ sin32 0x80000000 = 0x80000000 ∧
  (∀ x : Word, isNaN x = true ∨ isInf x = true → sin32 x = 0x7FC00000) ∧
  (∀ x : Word, isFinite x = true →
    isFinite (sin32 x) = true ∧ magnitude (sin32 x) ≤ magnitude 0x3F800000 ∧
    isFinite (fmul 0x40000000 (sin32 x)) = true ∧
    value (fmul 0x40000000 (sin32 x)) = 2 * value (sin32 x) ∧
    magnitude (fmul 0x40000000 (sin32 x)) ≤ magnitude 0x40000000)

/-- The angular step is the canonical NaN, or finite with magnitude at most 2.0; a `sample_rate` that is
a zero, a NaN in either, and an infinity in `P[0]` under every rate give the NaN
(`40_numerics.md` R98; `43_oscillator_mixer.md` R165). -/
def Obligations.AngularStepIsBounded : Prop :=
  ∀ freq rate : Word,
    (angularStep freq rate = 0x7FC00000 ∨ (isFinite (angularStep freq rate) = true ∧
      magnitude (angularStep freq rate) ≤ magnitude 0x40000000)) ∧
    (isZero rate = true ∨ isNaN rate = true ∨ isNaN freq = true ∨ isInf freq = true →
      angularStep freq rate = 0x7FC00000)

/-- With frequency `+0` and a positive finite `sample_rate` the angular step is `+0`; from the rest
phase it changes nothing; and it freezes every pair of finite components neither of which is `-0`
(`43_oscillator_mixer.md` R161; why a `-0` component is left out is log 18). -/
def Obligations.ZeroFrequencyFreezesThePhase : Prop :=
  (∀ rate : Word, isFinite rate = true → isZero rate = false → signBit rate = false →
    angularStep 0x00000000 rate = 0x00000000) ∧
  advance 0x00000000 0x3F800000 0x00000000 = (0x00000000, 0x3F800000) ∧
  (∀ s c : Word, isFinite s = true → s ≠ 0x80000000 → isFinite c = true → c ≠ 0x80000000 →
    advance s c 0x00000000 = (s, c))

/-- With `mix = 0` the output is the input bit for bit, for every finite sample and every finite phase,
but that a `-0` sample under a phase with its sign set gives `+0`; an infinite or NaN sample or phase gives
the canonical NaN (`43_oscillator_mixer.md` R162). -/
def Obligations.ZeroMixIsTheIdentity : Prop :=
  ∀ x s : Word,
    (isFinite x = true → isFinite s = true → x ≠ 0x80000000 ∨ signBit s = false →
      mixSample x (fsub 0x3F800000 0x00000000) 0x00000000 s = x) ∧
    (isFinite s = true → signBit s = true →
      mixSample 0x80000000 (fsub 0x3F800000 0x00000000) 0x00000000 s = 0x00000000) ∧
    (isFinite x = false ∨ isFinite s = false →
      mixSample x (fsub 0x3F800000 0x00000000) 0x00000000 s = 0x7FC00000)

/-- With `mix = 1` the output is `x * s` for finite samples and phases, wherever that product is not a
zero; where it is, the output is `-0` exactly when both terms are; an infinite sample gives the
canonical NaN (`43_oscillator_mixer.md` R163). -/
def Obligations.FullMixIsTheProduct : Prop :=
  ∀ x s : Word,
    (isFinite x = true → isFinite s = true → isZero (fmul x s) = false →
      mixSample x (fsub 0x3F800000 0x3F800000) 0x3F800000 s = fmul x s) ∧
    (isFinite x = true → isFinite s = true → isZero (fmul x s) = true →
      mixSample x (fsub 0x3F800000 0x3F800000) 0x3F800000 s =
        if signBit x = true ∧ signBit (fmul x s) = true then 0x80000000 else 0x00000000) ∧
    (isInf x = true → mixSample x (fsub 0x3F800000 0x3F800000) 0x3F800000 s = 0x7FC00000)

/-- A NaN angular step makes the phase the canonical NaN pair, which stays so under every angular step,
and with it every output is the canonical NaN whatever `mix` is (`43_oscillator_mixer.md` R165). -/
def Obligations.NaNPhaseIsPermanent : Prop :=
  (∀ s c : Word, advance s c 0x7FC00000 = (0x7FC00000, 0x7FC00000)) ∧
  (∀ (w : Word) (k : Nat),
    phaseAfter w k (0x7FC00000, 0x7FC00000) = (0x7FC00000, 0x7FC00000)) ∧
  (∀ x a m : Word, mixSample x a m 0x7FC00000 = 0x7FC00000)
end

