-- ==== Sys2Proof/Laws/State.lean ====
section
/-! SUPPORT. One lemma per field and update of the state, so that no later proof unfolds an update. -/

namespace Sys2Proof.Machine

/-! ### Parameter cells -/

@[simp] theorem readP_frequency (s : State) : s.readP .frequency = s.p0 := rfl
@[simp] theorem readP_mix (s : State) : s.readP .mix = s.p1 := rfl
@[simp] theorem readP_pastEnd (s : State) : s.readP .pastEnd = s.p2 := rfl

@[simp] theorem writeP_live (s : State) (k : ParamCell) (v : Word) : (s.writeP k v).live = s.live := by cases k <;> rfl
@[simp] theorem writeP_phaseS (s : State) (k : ParamCell) (v : Word) : (s.writeP k v).phaseS = s.phaseS := by cases k <;> rfl
@[simp] theorem writeP_phaseC (s : State) (k : ParamCell) (v : Word) : (s.writeP k v).phaseC = s.phaseC := by cases k <;> rfl
@[simp] theorem writeP_eng (s : State) (k : ParamCell) (v : Word) : (s.writeP k v).eng = s.eng := by cases k <;> rfl
@[simp] theorem writeP_rom (s : State) (k : ParamCell) (v : Word) : (s.writeP k v).rom = s.rom := by cases k <;> rfl
@[simp] theorem writeP_main (s : State) (k : ParamCell) (v : Word) : (s.writeP k v).main = s.main := by cases k <;> rfl
@[simp] theorem writeP_ctrl (s : State) (k : ParamCell) (v : Word) : (s.writeP k v).ctrl = s.ctrl := by cases k <;> rfl
@[simp] theorem writeP_mem (s : State) (k : ParamCell) (v : Word) : (s.writeP k v).mem = s.mem := by cases k <;> rfl
@[simp] theorem writeP_schedule (s : State) (k : ParamCell) (v : Word) : (s.writeP k v).schedule = s.schedule := by cases k <;> rfl
@[simp] theorem writeP_draw (s : State) (k : ParamCell) (v : Word) : (s.writeP k v).draw = s.draw := by cases k <;> rfl

@[simp] theorem readP_writeP_self (s : State) (k : ParamCell) (v : Word) :
    (s.writeP k v).readP k = v := by cases k <;> rfl

theorem readP_writeP_of_ne (s : State) {k j : ParamCell} (v : Word) (h : j ≠ k) :
    (s.writeP k v).readP j = s.readP j := by cases k <;> cases j <;> first | rfl | exact absurd rfl h

/-! ### Phase, engine and memory -/

@[simp] theorem setPhase_live (s : State) (sc : Word × Word) : (s.setPhase sc).live = s.live := rfl
@[simp] theorem setPhase_p0 (s : State) (sc : Word × Word) : (s.setPhase sc).p0 = s.p0 := rfl
@[simp] theorem setPhase_p1 (s : State) (sc : Word × Word) : (s.setPhase sc).p1 = s.p1 := rfl
@[simp] theorem setPhase_p2 (s : State) (sc : Word × Word) : (s.setPhase sc).p2 = s.p2 := rfl
@[simp] theorem setPhase_phaseS (s : State) (sc : Word × Word) : (s.setPhase sc).phaseS = sc.1 := rfl
@[simp] theorem setPhase_phaseC (s : State) (sc : Word × Word) : (s.setPhase sc).phaseC = sc.2 := rfl
@[simp] theorem setPhase_eng (s : State) (sc : Word × Word) : (s.setPhase sc).eng = s.eng := rfl
@[simp] theorem setPhase_rom (s : State) (sc : Word × Word) : (s.setPhase sc).rom = s.rom := rfl
@[simp] theorem setPhase_main (s : State) (sc : Word × Word) : (s.setPhase sc).main = s.main := rfl
@[simp] theorem setPhase_ctrl (s : State) (sc : Word × Word) : (s.setPhase sc).ctrl = s.ctrl := rfl
@[simp] theorem setPhase_mem (s : State) (sc : Word × Word) : (s.setPhase sc).mem = s.mem := rfl
@[simp] theorem setPhase_schedule (s : State) (sc : Word × Word) : (s.setPhase sc).schedule = s.schedule := rfl
@[simp] theorem setPhase_draw (s : State) (sc : Word × Word) : (s.setPhase sc).draw = s.draw := rfl

@[simp] theorem setEng_live (s : State) (e : Eng) : (s.setEng e).live = s.live := rfl
@[simp] theorem setEng_p0 (s : State) (e : Eng) : (s.setEng e).p0 = s.p0 := rfl
@[simp] theorem setEng_p1 (s : State) (e : Eng) : (s.setEng e).p1 = s.p1 := rfl
@[simp] theorem setEng_p2 (s : State) (e : Eng) : (s.setEng e).p2 = s.p2 := rfl
@[simp] theorem setEng_phaseS (s : State) (e : Eng) : (s.setEng e).phaseS = s.phaseS := rfl
@[simp] theorem setEng_phaseC (s : State) (e : Eng) : (s.setEng e).phaseC = s.phaseC := rfl
@[simp] theorem setEng_eng (s : State) (e : Eng) : (s.setEng e).eng = e := rfl
@[simp] theorem setEng_rom (s : State) (e : Eng) : (s.setEng e).rom = s.rom := rfl
@[simp] theorem setEng_main (s : State) (e : Eng) : (s.setEng e).main = s.main := rfl
@[simp] theorem setEng_ctrl (s : State) (e : Eng) : (s.setEng e).ctrl = s.ctrl := rfl
@[simp] theorem setEng_mem (s : State) (e : Eng) : (s.setEng e).mem = s.mem := rfl
@[simp] theorem setEng_schedule (s : State) (e : Eng) : (s.setEng e).schedule = s.schedule := rfl
@[simp] theorem setEng_draw (s : State) (e : Eng) : (s.setEng e).draw = s.draw := rfl

@[simp] theorem setMem_live (s : State) (m : Memory) : (s.setMem m).live = s.live := rfl
@[simp] theorem setMem_p0 (s : State) (m : Memory) : (s.setMem m).p0 = s.p0 := rfl
@[simp] theorem setMem_p1 (s : State) (m : Memory) : (s.setMem m).p1 = s.p1 := rfl
@[simp] theorem setMem_p2 (s : State) (m : Memory) : (s.setMem m).p2 = s.p2 := rfl
@[simp] theorem setMem_phaseS (s : State) (m : Memory) : (s.setMem m).phaseS = s.phaseS := rfl
@[simp] theorem setMem_phaseC (s : State) (m : Memory) : (s.setMem m).phaseC = s.phaseC := rfl
@[simp] theorem setMem_eng (s : State) (m : Memory) : (s.setMem m).eng = s.eng := rfl
@[simp] theorem setMem_rom (s : State) (m : Memory) : (s.setMem m).rom = s.rom := rfl
@[simp] theorem setMem_main (s : State) (m : Memory) : (s.setMem m).main = s.main := rfl
@[simp] theorem setMem_ctrl (s : State) (m : Memory) : (s.setMem m).ctrl = s.ctrl := rfl
@[simp] theorem setMem_mem (s : State) (m : Memory) : (s.setMem m).mem = m := rfl
@[simp] theorem setMem_schedule (s : State) (m : Memory) : (s.setMem m).schedule = s.schedule := rfl
@[simp] theorem setMem_draw (s : State) (m : Memory) : (s.setMem m).draw = s.draw := rfl

/-! ### Instance -/

@[simp] theorem created_live (s : State) : (s.created).live = true := rfl
@[simp] theorem created_p0 (s : State) : (s.created).p0 = 0x447A0000 := rfl
@[simp] theorem created_p1 (s : State) : (s.created).p1 = 0x3F000000 := rfl
@[simp] theorem created_p2 (s : State) : (s.created).p2 = Config.freeWord s.draw := rfl
@[simp] theorem created_phaseS (s : State) : (s.created).phaseS = 0x00000000 := rfl
@[simp] theorem created_phaseC (s : State) : (s.created).phaseC = 0x3F800000 := rfl
@[simp] theorem created_eng (s : State) : (s.created).eng = s.eng := rfl
@[simp] theorem created_rom (s : State) : (s.created).rom = s.rom := rfl
@[simp] theorem created_main (s : State) : (s.created).main = s.main := rfl
@[simp] theorem created_ctrl (s : State) : (s.created).ctrl = s.ctrl := rfl
@[simp] theorem created_mem (s : State) : (s.created).mem = s.mem := rfl
@[simp] theorem created_schedule (s : State) : (s.created).schedule = s.schedule := rfl
@[simp] theorem created_draw (s : State) : (s.created).draw = s.draw + 1 := rfl

@[simp] theorem destroyed_live (s : State) : (s.destroyed).live = false := rfl
@[simp] theorem destroyed_p0 (s : State) : (s.destroyed).p0 = Config.freeWord s.draw := rfl
@[simp] theorem destroyed_p1 (s : State) : (s.destroyed).p1 = Config.freeWord (s.draw + 1) := rfl
@[simp] theorem destroyed_p2 (s : State) : (s.destroyed).p2 = Config.freeWord (s.draw + 2) := rfl
@[simp] theorem destroyed_phaseS (s : State) : (s.destroyed).phaseS = Config.freeWord (s.draw + 3) := rfl
@[simp] theorem destroyed_phaseC (s : State) : (s.destroyed).phaseC = Config.freeWord (s.draw + 4) := rfl
@[simp] theorem destroyed_eng (s : State) : (s.destroyed).eng = s.eng := rfl
@[simp] theorem destroyed_rom (s : State) : (s.destroyed).rom = s.rom := rfl
@[simp] theorem destroyed_main (s : State) : (s.destroyed).main = s.main := rfl
@[simp] theorem destroyed_ctrl (s : State) : (s.destroyed).ctrl = s.ctrl := rfl
@[simp] theorem destroyed_mem (s : State) : (s.destroyed).mem = s.mem := rfl
@[simp] theorem destroyed_schedule (s : State) : (s.destroyed).schedule = s.schedule := rfl
@[simp] theorem destroyed_draw (s : State) : (s.destroyed).draw = s.draw + 5 := rfl

@[simp] theorem stopEng_live (s : State) : (s.stopEng).live = s.live := rfl
@[simp] theorem stopEng_p0 (s : State) : (s.stopEng).p0 = s.p0 := rfl
@[simp] theorem stopEng_p1 (s : State) : (s.stopEng).p1 = s.p1 := rfl
@[simp] theorem stopEng_p2 (s : State) : (s.stopEng).p2 = s.p2 := rfl
@[simp] theorem stopEng_phaseS (s : State) : (s.stopEng).phaseS = s.phaseS := rfl
@[simp] theorem stopEng_phaseC (s : State) : (s.stopEng).phaseC = s.phaseC := rfl
@[simp] theorem stopEng_eng (s : State) : (s.stopEng).eng = Eng.idle s.draw := rfl
@[simp] theorem stopEng_rom (s : State) : (s.stopEng).rom = s.rom := rfl
@[simp] theorem stopEng_main (s : State) : (s.stopEng).main = s.main := rfl
@[simp] theorem stopEng_ctrl (s : State) : (s.stopEng).ctrl = s.ctrl := rfl
@[simp] theorem stopEng_mem (s : State) : (s.stopEng).mem = s.mem := rfl
@[simp] theorem stopEng_schedule (s : State) : (s.stopEng).schedule = s.schedule := rfl
@[simp] theorem stopEng_draw (s : State) : (s.stopEng).draw = s.draw + 9 := rfl

@[simp] theorem idle_run (t : Nat) : (Eng.idle t).run = false := rfl

/-! ### Ports -/

@[simp] theorem port_main (s : State) : s.port .main = s.main := rfl
@[simp] theorem port_ctrl (s : State) : s.port .ctrl = s.ctrl := rfl

@[simp] theorem setPort_live (s : State) (p : Port) (q : PortState) : (s.setPort p q).live = s.live := by cases p <;> rfl
@[simp] theorem setPort_p0 (s : State) (p : Port) (q : PortState) : (s.setPort p q).p0 = s.p0 := by cases p <;> rfl
@[simp] theorem setPort_p1 (s : State) (p : Port) (q : PortState) : (s.setPort p q).p1 = s.p1 := by cases p <;> rfl
@[simp] theorem setPort_p2 (s : State) (p : Port) (q : PortState) : (s.setPort p q).p2 = s.p2 := by cases p <;> rfl
@[simp] theorem setPort_phaseS (s : State) (p : Port) (q : PortState) : (s.setPort p q).phaseS = s.phaseS := by cases p <;> rfl
@[simp] theorem setPort_phaseC (s : State) (p : Port) (q : PortState) : (s.setPort p q).phaseC = s.phaseC := by cases p <;> rfl
@[simp] theorem setPort_eng (s : State) (p : Port) (q : PortState) : (s.setPort p q).eng = s.eng := by cases p <;> rfl
@[simp] theorem setPort_rom (s : State) (p : Port) (q : PortState) : (s.setPort p q).rom = s.rom := by cases p <;> rfl
@[simp] theorem setPort_mem (s : State) (p : Port) (q : PortState) : (s.setPort p q).mem = s.mem := by cases p <;> rfl
@[simp] theorem setPort_schedule (s : State) (p : Port) (q : PortState) : (s.setPort p q).schedule = s.schedule := by cases p <;> rfl
@[simp] theorem setPort_draw (s : State) (p : Port) (q : PortState) : (s.setPort p q).draw = s.draw := by cases p <;> rfl

@[simp] theorem setPort_main_main (s : State) (q : PortState) : (s.setPort .main q).main = q := rfl
@[simp] theorem setPort_main_ctrl (s : State) (q : PortState) : (s.setPort .main q).ctrl = s.ctrl := rfl
@[simp] theorem setPort_ctrl_main (s : State) (q : PortState) : (s.setPort .ctrl q).main = s.main := rfl
@[simp] theorem setPort_ctrl_ctrl (s : State) (q : PortState) : (s.setPort .ctrl q).ctrl = q := rfl

@[simp] theorem port_setPort_self (s : State) (p : Port) (q : PortState) :
    (s.setPort p q).port p = q := by cases p <;> rfl

theorem port_setPort_of_ne (s : State) {p r : Port} (q : PortState) (h : r ≠ p) :
    (s.setPort p q).port r = s.port r := by cases p <;> cases r <;> first | rfl | exact absurd rfl h

@[simp] theorem place_live (s : State) (p : Port) (cw : Record) : (s.place p cw).live = s.live := by cases p <;> rfl
@[simp] theorem place_p0 (s : State) (p : Port) (cw : Record) : (s.place p cw).p0 = s.p0 := by cases p <;> rfl
@[simp] theorem place_p1 (s : State) (p : Port) (cw : Record) : (s.place p cw).p1 = s.p1 := by cases p <;> rfl
@[simp] theorem place_p2 (s : State) (p : Port) (cw : Record) : (s.place p cw).p2 = s.p2 := by cases p <;> rfl
@[simp] theorem place_phaseS (s : State) (p : Port) (cw : Record) : (s.place p cw).phaseS = s.phaseS := by cases p <;> rfl
@[simp] theorem place_phaseC (s : State) (p : Port) (cw : Record) : (s.place p cw).phaseC = s.phaseC := by cases p <;> rfl
@[simp] theorem place_eng (s : State) (p : Port) (cw : Record) : (s.place p cw).eng = s.eng := by cases p <;> rfl
@[simp] theorem place_rom (s : State) (p : Port) (cw : Record) : (s.place p cw).rom = s.rom := by cases p <;> rfl
@[simp] theorem place_mem (s : State) (p : Port) (cw : Record) : (s.place p cw).mem = s.mem := by cases p <;> rfl
@[simp] theorem place_schedule (s : State) (p : Port) (cw : Record) : (s.place p cw).schedule = s.schedule := by cases p <;> rfl
@[simp] theorem place_draw (s : State) (p : Port) (cw : Record) : (s.place p cw).draw = s.draw := by cases p <;> rfl

@[simp] theorem respond_live (s : State) (p : Port) (r : Response) : (s.respond p r).live = s.live := by cases p <;> rfl
@[simp] theorem respond_p0 (s : State) (p : Port) (r : Response) : (s.respond p r).p0 = s.p0 := by cases p <;> rfl
@[simp] theorem respond_p1 (s : State) (p : Port) (r : Response) : (s.respond p r).p1 = s.p1 := by cases p <;> rfl
@[simp] theorem respond_p2 (s : State) (p : Port) (r : Response) : (s.respond p r).p2 = s.p2 := by cases p <;> rfl
@[simp] theorem respond_phaseS (s : State) (p : Port) (r : Response) : (s.respond p r).phaseS = s.phaseS := by cases p <;> rfl
@[simp] theorem respond_phaseC (s : State) (p : Port) (r : Response) : (s.respond p r).phaseC = s.phaseC := by cases p <;> rfl
@[simp] theorem respond_eng (s : State) (p : Port) (r : Response) : (s.respond p r).eng = s.eng := by cases p <;> rfl
@[simp] theorem respond_rom (s : State) (p : Port) (r : Response) : (s.respond p r).rom = s.rom := by cases p <;> rfl
@[simp] theorem respond_mem (s : State) (p : Port) (r : Response) : (s.respond p r).mem = s.mem := by cases p <;> rfl
@[simp] theorem respond_schedule (s : State) (p : Port) (r : Response) : (s.respond p r).schedule = s.schedule := by cases p <;> rfl
@[simp] theorem respond_draw (s : State) (p : Port) (r : Response) : (s.respond p r).draw = s.draw := by cases p <;> rfl

@[simp] theorem respond_readP (s : State) (p : Port) (r : Response) (k : ParamCell) :
    (s.respond p r).readP k = s.readP k := by cases k <;> cases p <;> rfl

@[simp] theorem respond_port_self (s : State) (p : Port) (r : Response) :
    (s.respond p r).port p = { s.port p with cmd := none, resp := some r } := by cases p <;> rfl

theorem respond_port_of_ne (s : State) {p q : Port} (r : Response) (h : q ≠ p) :
    (s.respond p r).port q = s.port q := port_setPort_of_ne s _ h

@[simp] theorem respond_main_ctrl (s : State) (r : Response) : (s.respond .main r).ctrl = s.ctrl := rfl
@[simp] theorem respond_ctrl_main (s : State) (r : Response) : (s.respond .ctrl r).main = s.main := rfl
@[simp] theorem respond_main_main (s : State) (r : Response) :
    (s.respond .main r).main = { s.main with cmd := none, resp := some r } := rfl
@[simp] theorem respond_ctrl_ctrl (s : State) (r : Response) :
    (s.respond .ctrl r).ctrl = { s.ctrl with cmd := none, resp := some r } := rfl

/-! ### Hardware reset -/

@[simp] theorem hardReset_live (s : State) : (s.hardReset).live = false := rfl
@[simp] theorem hardReset_p0 (s : State) : (s.hardReset).p0 = Config.freeWord s.draw := rfl
@[simp] theorem hardReset_p1 (s : State) : (s.hardReset).p1 = Config.freeWord (s.draw + 1) := rfl
@[simp] theorem hardReset_p2 (s : State) : (s.hardReset).p2 = Config.freeWord (s.draw + 2) := rfl
@[simp] theorem hardReset_phaseS (s : State) : (s.hardReset).phaseS = Config.freeWord (s.draw + 3) := rfl
@[simp] theorem hardReset_phaseC (s : State) : (s.hardReset).phaseC = Config.freeWord (s.draw + 4) := rfl
@[simp] theorem hardReset_eng (s : State) : (s.hardReset).eng = Eng.idle (s.draw + 5) := rfl
@[simp] theorem hardReset_rom (s : State) : (s.hardReset).rom = s.rom := rfl
@[simp] theorem hardReset_main (s : State) : (s.hardReset).main = s.main.cleared := rfl
@[simp] theorem hardReset_ctrl (s : State) : (s.hardReset).ctrl = s.ctrl.cleared := rfl
@[simp] theorem hardReset_mem (s : State) : (s.hardReset).mem = s.mem := rfl
@[simp] theorem hardReset_schedule (s : State) : (s.hardReset).schedule = s.schedule := rfl
@[simp] theorem hardReset_draw (s : State) : (s.hardReset).draw = s.draw + 14 := rfl

@[simp] theorem cleared_cmd (q : PortState) : q.cleared.cmd = none := rfl
@[simp] theorem cleared_resp (q : PortState) : q.cleared.resp = none := rfl
@[simp] theorem cleared_todo (q : PortState) : q.cleared.todo = q.todo := rfl

/-! ### Engine counters -/

@[simp] theorem nextFrame_run (e : Eng) : e.nextFrame.run = e.run := rfl
@[simp] theorem nextFrame_ib (e : Eng) : e.nextFrame.ib = e.ib := rfl
@[simp] theorem nextFrame_ob (e : Eng) : e.nextFrame.ob = e.ob := rfl
@[simp] theorem nextFrame_len (e : Eng) : e.nextFrame.len = e.len := rfl
@[simp] theorem nextFrame_oc (e : Eng) : e.nextFrame.oc = e.oc := rfl
@[simp] theorem nextFrame_w (e : Eng) : e.nextFrame.w = e.w := rfl
@[simp] theorem nextFrame_m (e : Eng) : e.nextFrame.m = e.m := rfl
@[simp] theorem nextFrame_a (e : Eng) : e.nextFrame.a = e.a := rfl
@[simp] theorem nextFrame_n (e : Eng) : e.nextFrame.n = e.n + 1 := rfl
@[simp] theorem nextFrame_i (e : Eng) : e.nextFrame.i = 0 := rfl

@[simp] theorem nextChannel_run (e : Eng) : e.nextChannel.run = e.run := rfl
@[simp] theorem nextChannel_ib (e : Eng) : e.nextChannel.ib = e.ib := rfl
@[simp] theorem nextChannel_ob (e : Eng) : e.nextChannel.ob = e.ob := rfl
@[simp] theorem nextChannel_len (e : Eng) : e.nextChannel.len = e.len := rfl
@[simp] theorem nextChannel_oc (e : Eng) : e.nextChannel.oc = e.oc := rfl
@[simp] theorem nextChannel_w (e : Eng) : e.nextChannel.w = e.w := rfl
@[simp] theorem nextChannel_m (e : Eng) : e.nextChannel.m = e.m := rfl
@[simp] theorem nextChannel_a (e : Eng) : e.nextChannel.a = e.a := rfl
@[simp] theorem nextChannel_n (e : Eng) : e.nextChannel.n = e.n := rfl
@[simp] theorem nextChannel_i (e : Eng) : e.nextChannel.i = e.i + 1 := rfl

end Sys2Proof.Machine
end

