-- ==== Sys2Proof/Laws/Agents.lean ====
section
/-! SUPPORT. What the host and the serving agents can do in a step. -/

namespace Sys2Proof.Machine

@[simp] theorem popTodo_cmd (s : State) (p q : Port) :
    ((s.popTodo p).port q).cmd = (s.port q).cmd := by cases p <;> cases q <;> rfl
@[simp] theorem popTodo_resp (s : State) (p q : Port) :
    ((s.popTodo p).port q).resp = (s.port q).resp := by cases p <;> cases q <;> rfl
@[simp] theorem popTodo_todo_self (s : State) (p : Port) :
    ((s.popTodo p).port p).todo = (s.port p).todo.tail := by cases p <;> rfl
theorem popTodo_port_of_ne (s : State) {p q : Port} (h : q ≠ p) :
    (s.popTodo p).port q = s.port q := port_setPort_of_ne s _ h

/-- Taking a move off the host's list changes the list and nothing else. -/
theorem popTodo_same (s : State) (p : Port) :
    ∃ main ctrl, s.popTodo p = { s with main := main, ctrl := ctrl } := by
  cases p <;> exact ⟨_, _, rfl⟩

/-- The host's step is its next move on the port; with nothing to do its state is held. -/
theorem hostStep_cases {p : Port} {s t : State} (h : hostStep p s = .next t) :
    ((s.port p).todo = [] ∧ t = s) ∨
    ∃ m rest, (s.port p).todo = m :: rest ∧ t = (s.popTodo p).hostMove p m := by
  unfold hostStep at h
  split at h
  · next m rest hm =>
    cases h
    exact .inr ⟨m, rest, hm, rfl⟩
  · next hm =>
    cases h
    exact .inl ⟨hm, rfl⟩

/-- Serving a port executes the instruction its record decodes to. -/
theorem serveStep_cases {p : Port} {s t : State} (h : serveStep p s = .next t) :
    ((s.port p).cmd = none ∧ t = s) ∨
    ∃ cw, (s.port p).cmd = some cw ∧ exec (decode p cw) s = .next t := by
  unfold serveStep at h
  split at h
  · next cw hc => exact .inr ⟨cw, hc, h⟩
  · next hc =>
    cases h
    exact .inl ⟨hc, rfl⟩

end Sys2Proof.Machine
end

