-- ==== Sys2Proof/Laws/Ops.lean ====
section
/-! SUPPORT. What the shared tests of an operation can answer. -/

namespace Sys2Proof.Machine

/-- What `State.gate` answers is the operation's own answer on its port with its instance and a good
index, or one of the three codes with nothing else done (`60_exceptions.md` R183). -/
theorem gate_cases (s : State) (p own : Port) (needsLive indexOk : Bool) (act : State → Outcome) :
    (p = own ∧ (needsLive = true → s.live = true) ∧ indexOk = true ∧
      s.gate p own needsLive indexOk act = act s) ∨
    (p ≠ own ∧ s.gate p own needsLive indexOk act =
      .next (s.respond p ResultCode.badCommand.response)) ∨
    (p = own ∧ needsLive = true ∧ s.live = false ∧ s.gate p own needsLive indexOk act =
      .next (s.respond p ResultCode.notLive.response)) ∨
    (p = own ∧ (needsLive = true → s.live = true) ∧ indexOk = false ∧
      s.gate p own needsLive indexOk act =
        .next (s.respond p ResultCode.invalidIndex.response)) := by
  rcases s with ⟨live, _⟩
  cases p <;> cases own <;> cases needsLive <;> cases indexOk <;> cases live <;>
    simp [State.gate, resultCode]

/-- An operation that passes its tests is performed. -/
theorem gate_pass (s : State) (p : Port) {needsLive indexOk : Bool} (act : State → Outcome)
    (hl : needsLive = true → s.live = true) (hi : indexOk = true) :
    s.gate p p needsLive indexOk act = act s := by
  rcases s with ⟨live, _⟩
  subst hi
  cases needsLive <;> cases live <;> simp_all [State.gate, resultCode]

/-- A command of another port is a reserved encoding (`30_encoding.md` R77 case (c)). -/
theorem gate_wrong_port (s : State) {p own : Port} (needsLive indexOk : Bool)
    (act : State → Outcome) (h : p ≠ own) :
    s.gate p own needsLive indexOk act = .next (s.respond p ResultCode.badCommand.response) := by
  simp [State.gate, resultCode, h]

/-- Without an instance the answer is `NotLive` (`41_lifecycle.md` R113), whatever the index. -/
theorem gate_not_live (s : State) (p : Port) (indexOk : Bool) (act : State → Outcome)
    (h : s.live = false) :
    s.gate p p true indexOk act = .next (s.respond p ResultCode.notLive.response) := by
  simp [State.gate, resultCode, h]

/-- With an instance a bad index answers `InvalidIndex` (`60_exceptions.md` R179). -/
theorem gate_bad_index (s : State) (p : Port) {needsLive : Bool} (act : State → Outcome)
    (hl : needsLive = true → s.live = true) :
    s.gate p p needsLive false act = .next (s.respond p ResultCode.invalidIndex.response) := by
  rcases s with ⟨live, _⟩
  cases needsLive <;> cases live <;> simp_all [State.gate, resultCode]

/-! ### Lent regions -/

/-- A word at an offset from the base is in the region when the offset is below its length. -/
@[simp] theorem inRegion_add (base off : Word) (count : Nat) :
    inRegion base count (base + off) = decide (off.toNat < count) := by
  have h : base + off - base = off := by bv_omega
  rw [inRegion, h]

theorem mayRead_congr {s t : State} (h : t.main.cmd = s.main.cmd) (a : Word) :
    t.mayRead a = s.mayRead a := by rw [State.mayRead, h, State.mayRead]

theorem mayWrite_congr {s t : State} (h : t.main.cmd = s.main.cmd) (a : Word) :
    t.mayWrite a = s.mayWrite a := by rw [State.mayWrite, h, State.mayWrite]

@[simp] theorem mayRead_setEng (s : State) (e : Eng) (a : Word) :
    (s.setEng e).mayRead a = s.mayRead a := rfl
@[simp] theorem mayRead_setMem (s : State) (m : Memory) (a : Word) :
    (s.setMem m).mayRead a = s.mayRead a := rfl
@[simp] theorem mayRead_setPhase (s : State) (sc : Word × Word) (a : Word) :
    (s.setPhase sc).mayRead a = s.mayRead a := rfl
@[simp] theorem mayWrite_setEng (s : State) (e : Eng) (a : Word) :
    (s.setEng e).mayWrite a = s.mayWrite a := rfl
@[simp] theorem mayWrite_setMem (s : State) (m : Memory) (a : Word) :
    (s.setMem m).mayWrite a = s.mayWrite a := rfl
@[simp] theorem mayWrite_setPhase (s : State) (sc : Word × Word) (a : Word) :
    (s.setPhase sc).mayWrite a = s.mayWrite a := rfl

/-- Every word a covered call reads is lent for reading, wrapped addresses included. -/
theorem mayRead_of_callCovered {s : State} {cw : Record} {off : Word} (hc : s.main.cmd = some cw)
    (hp : cw.cw0 = 0x00000003) (hcov : callCovered cw = true) (hoff : off.toNat < outWords cw) :
    s.mayRead (cw.cw1 + off) = true := by
  have hlt : off.toNat < 2 ^ 32 := off.isLt
  simp only [callCovered, hp, bne_self_eq_false, Bool.false_or, decide_eq_true_eq] at hcov
  simp only [State.mayRead, hc, lendsInput, hp, beq_self_eq_true, Bool.true_and, inRegion_add,
    decide_eq_true_eq]
  exact lt_of_lt_of_le (lt_min hoff hlt) hcov

/-- Every word a call writes is lent for writing. -/
theorem mayWrite_of_outWords {s : State} {cw : Record} {off : Word} (hc : s.main.cmd = some cw)
    (hp : cw.cw0 = 0x00000003) (hoff : off.toNat < outWords cw) :
    s.mayWrite (cw.cw2 + off) = true := by
  simp only [State.mayWrite, hc, lendsOutput, hp, beq_self_eq_true, Bool.true_and, inRegion_add,
    decide_eq_true_eq]
  exact hoff

end Sys2Proof.Machine
end

