-- ==== Sys2Proof/Laws/Exec.lean ====
section
/-! SUPPORT. What executing an instruction can do, said once for all instructions. -/

namespace Sys2Proof.Machine

/-- The state a performed operation leaves, one case per shape of effect. -/
def Performed (i : Instr) (s t : State) : Prop :=
  (i = .create .main ∧ t = s.created.respond .main ResultCode.ok.response) ∨
  (i = .release .main ∧ s.live = true ∧ t = s.destroyed.respond .main ResultCode.ok.response) ∨
  (∃ ib ob len ic oc rate, i = .proc .main ib ob len ic oc rate ∧ s.live = true ∧
    t = s.setEng (Eng.start ib ob len oc rate s.p0 s.p1)) ∨
  (∃ index v, i = .set .ctrl index v ∧ s.live = true ∧ idxValid index = true ∧
    t = (s.writeP (cellAt index) v).respond .ctrl ResultCode.ok.response) ∨
  (∃ index, i = .get .ctrl index ∧ s.live = true ∧ idxValid index = true ∧
    t = s.respond .ctrl ⟨ResultCode.ok.word, s.readP (cellAt index), 0, 0, 0, 0⟩) ∨
  (∃ index, i = .desc .ctrl index ∧ s.live = true ∧ descValid index = true ∧
    t = s.respond .ctrl ⟨ResultCode.ok.word, (rowAt s.rom index).min, (rowAt s.rom index).max,
      (rowAt s.rom index).dflt, (rowAt s.rom index).scale, (rowAt s.rom index).exponent⟩) ∨
  (∃ name buffer num, i = .getbuf .ctrl name buffer num ∧ s.live = true ∧
    t = s.respond .ctrl ResultCode.ok.response)

/-- Turned away with a code other than `Ok`, and nothing else done. -/
def TurnedAway (i : Instr) (s t : State) : Prop :=
  ∃ code, code ≠ ResultCode.ok ∧ t = s.respond i.port code.response

/-- An operation behind the shared tests is turned away or performed. -/
theorem gate_outcome {i : Instr} {s : State} {own : Port} {needsLive indexOk : Bool}
    {act : State → Outcome} {out : State}
    (hact : i.port = own → (needsLive = true → s.live = true) → indexOk = true →
      act s = .next out ∧ Performed i s out) :
    ∃ t, s.gate i.port own needsLive indexOk act = .next t ∧
      (TurnedAway i s t ∨ Performed i s t) := by
  rcases gate_cases s i.port own needsLive indexOk act with
    ⟨hp, hl, hx, h⟩ | ⟨_, h⟩ | ⟨_, _, _, h⟩ | ⟨_, _, _, h⟩
  · obtain ⟨h1, h2⟩ := hact hp hl hx
    exact ⟨out, h.trans h1, .inr h2⟩
  · exact ⟨_, h, .inl ⟨.badCommand, by decide, rfl⟩⟩
  · exact ⟨_, h, .inl ⟨.notLive, by decide, rfl⟩⟩
  · exact ⟨_, h, .inl ⟨.invalidIndex, by decide, rfl⟩⟩

/-- Executing any instruction in any state answers a next state: turned away or performed. -/
theorem exec_outcome (i : Instr) (s : State) :
    ∃ t, exec i s = .next t ∧ (TurnedAway i s t ∨ Performed i s t) := by
  have bad : ∀ p, i.port = p → ∃ t, s.badCommand p = .next t ∧
      (TurnedAway i s t ∨ Performed i s t) := fun p hp =>
    ⟨_, rfl, .inl ⟨.badCommand, by decide, by rw [hp]⟩⟩
  cases i with
  | create p =>
    unfold exec execCreate
    refine gate_outcome (i := .create p) fun hp _ _ => ⟨rfl, ?_⟩
    cases hp
    exact .inl ⟨rfl, rfl⟩
  | release p =>
    unfold exec execRelease
    refine gate_outcome (i := .release p) fun hp hl _ => ⟨rfl, ?_⟩
    cases hp
    exact .inr (.inl ⟨rfl, hl rfl, rfl⟩)
  | proc p ib ob len ic oc rate =>
    unfold exec execProc
    refine gate_outcome (i := .proc p ib ob len ic oc rate) fun hp hl _ => ⟨rfl, ?_⟩
    cases hp
    exact .inr (.inr (.inl ⟨ib, ob, len, ic, oc, rate, rfl, hl rfl, rfl⟩))
  | set p index v =>
    unfold exec execSet
    refine gate_outcome (i := .set p index v) fun hp hl hx => ⟨rfl, ?_⟩
    cases hp
    exact .inr (.inr (.inr (.inl ⟨index, v, rfl, hl rfl, hx, rfl⟩)))
  | get p index =>
    unfold exec execGet
    refine gate_outcome (i := .get p index) fun hp hl hx => ⟨rfl, ?_⟩
    cases hp
    exact .inr (.inr (.inr (.inr (.inl ⟨index, rfl, hl rfl, hx, rfl⟩))))
  | desc p index =>
    unfold exec execDesc
    refine gate_outcome (i := .desc p index) fun hp hl hx => ⟨rfl, ?_⟩
    cases hp
    exact .inr (.inr (.inr (.inr (.inr (.inl ⟨index, rfl, hl rfl, hx, rfl⟩)))))
  | getbuf p name buffer num =>
    unfold exec execGetbuf
    refine gate_outcome (i := .getbuf p name buffer num) fun hp hl _ => ⟨rfl, ?_⟩
    cases hp
    exact .inr (.inr (.inr (.inr (.inr (.inr ⟨name, buffer, num, rfl, hl rfl, rfl⟩)))))
  | reserved00 p => exact bad p rfl
  | reserved04To07 p low => exact bad p rfl
  | reserved08To0F p low => exact bad p rfl
  | reserved14To17 p low => exact bad p rfl
  | reserved18To1F p low => exact bad p rfl
  | reserved20To3F p low => exact bad p rfl
  | reserved40To7F p low => exact bad p rfl
  | reserved80ToFF p low => exact bad p rfl
  | reservedRsvNonzero p rsv opc => exact bad p rfl

/-- What a next state of `exec` can be. -/
theorem exec_cases {i : Instr} {s t : State} (h : exec i s = .next t) :
    TurnedAway i s t ∨ Performed i s t := by
  obtain ⟨u, hu, hc⟩ := exec_outcome i s
  cases hu.symm.trans h
  exact hc

end Sys2Proof.Machine
end

