-- ==== Sys2Proof/Laws/Memory.lean ====
section
/-! SUPPORT. The laws of the sample memory: what a byte read gives after a byte write, which bytes a
word write touches, and that both keep the canonical form. -/

namespace Sys2Proof.Machine

/-! ### Bytes -/

@[simp] theorem readByte_writeByte_self (m : Memory) (a : Nat) (v : Byte) :
    (m.writeByte a v).readByte a = some v := by
  induction m with
  | nil => simp [Memory.writeByte, Memory.readByte]
  | cons c rest ih =>
    obtain ⟨b, w⟩ := c
    unfold Memory.writeByte
    split
    · simp [Memory.readByte]
    · split
      · simp [Memory.readByte]
      · next h => simpa [Memory.readByte, h] using ih

theorem readByte_writeByte_of_ne (m : Memory) {a b : Nat} (v : Byte) (h : b ≠ a) :
    (m.writeByte a v).readByte b = m.readByte b := by
  induction m with
  | nil => simp [Memory.writeByte, Memory.readByte, h]
  | cons c rest ih =>
    obtain ⟨x, w⟩ := c
    unfold Memory.writeByte
    split
    · simp [Memory.readByte, h]
    · split
      · next hx => subst hx; simp [Memory.readByte, h]
      · by_cases hb : b = x <;> simp [Memory.readByte, hb, ih]

/-! ### The canonical form -/

theorem risingFrom_mono {lo hi : Nat} (m : Memory) (h : lo ≤ hi)
    (hm : Memory.risingFrom hi m = true) : Memory.risingFrom lo m = true := by
  cases m with
  | nil => rfl
  | cons c rest =>
    simp only [Memory.risingFrom, Bool.and_eq_true, decide_eq_true_eq] at hm ⊢
    exact ⟨⟨h.trans hm.1.1, hm.1.2⟩, hm.2⟩

theorem risingFrom_writeByte (m : Memory) {lo a : Nat} (v : Byte) (hlo : lo ≤ a) (ha : a < 2 ^ 34)
    (hm : Memory.risingFrom lo m = true) : Memory.risingFrom lo (m.writeByte a v) = true := by
  induction m generalizing lo with
  | nil =>
    simp only [Memory.writeByte, Memory.risingFrom, Bool.and_eq_true, decide_eq_true_eq]
    exact ⟨⟨hlo, ha⟩, trivial⟩
  | cons c rest ih =>
    obtain ⟨b, w⟩ := c
    simp only [Memory.risingFrom, Bool.and_eq_true, decide_eq_true_eq] at hm
    unfold Memory.writeByte
    split
    · next h =>
      simp only [Memory.risingFrom, Bool.and_eq_true, decide_eq_true_eq]
      exact ⟨⟨hlo, ha⟩, ⟨h, hm.1.2⟩, hm.2⟩
    · split
      · next h =>
        subst h
        simp only [Memory.risingFrom, Bool.and_eq_true, decide_eq_true_eq]
        exact ⟨⟨hlo, ha⟩, hm.2⟩
      · simp only [Memory.risingFrom, Bool.and_eq_true, decide_eq_true_eq]
        exact ⟨hm.1, ih (by omega) hm.2⟩

theorem wf_writeByte (m : Memory) {a : Nat} (v : Byte) (ha : a < 2 ^ 34) (hm : m.wf = true) :
    (m.writeByte a v).wf = true := risingFrom_writeByte m v (Nat.zero_le a) ha hm

theorem byteAddr_lt (addr : Word) {k : Nat} (hk : k < 4) : byteAddr addr k < 2 ^ 34 := by
  have := addr.isLt
  unfold byteAddr
  omega

theorem wf_writeWord (m : Memory) (addr v : Word) (hm : m.wf = true) :
    (m.writeWord addr v).wf = true :=
  wf_writeByte _ _ (byteAddr_lt addr (by omega))
    (wf_writeByte _ _ (byteAddr_lt addr (by omega))
      (wf_writeByte _ _ (byteAddr_lt addr (by omega))
        (wf_writeByte _ _ (byteAddr_lt addr (by omega)) hm)))

/-! ### Words -/

/-- The bytes a word write leaves alone (`20_memory.md` R43): every byte outside the word. -/
theorem readByte_writeWord_of_outside (m : Memory) (addr v : Word) {b : Nat}
    (h : b < byteAddr addr 0 ∨ byteAddr addr 3 < b) :
    (m.writeWord addr v).readByte b = m.readByte b := by
  unfold byteAddr at h
  simp only [Memory.writeWord]
  rw [readByte_writeByte_of_ne, readByte_writeByte_of_ne, readByte_writeByte_of_ne,
    readByte_writeByte_of_ne] <;> unfold byteAddr <;> omega

/-- The four bytes a word write leaves in the word (`20_memory.md` R44). -/
theorem readByte_writeWord_inside (m : Memory) (addr v : Word) :
    (m.writeWord addr v).readByte (byteAddr addr 0) = some (v.extractLsb' 0 8) ∧
    (m.writeWord addr v).readByte (byteAddr addr 1) = some (v.extractLsb' 8 8) ∧
    (m.writeWord addr v).readByte (byteAddr addr 2) = some (v.extractLsb' 16 8) ∧
    (m.writeWord addr v).readByte (byteAddr addr 3) = some (v.extractLsb' 24 8) := by
  have ne : ∀ i j : Nat, i ≠ j → byteAddr addr i ≠ byteAddr addr j := by
    intro i j h; unfold byteAddr; omega
  simp only [Memory.writeWord]
  refine ⟨?_, ?_, ?_, ?_⟩
  · rw [readByte_writeByte_of_ne _ _ (ne 0 3 (by omega)),
      readByte_writeByte_of_ne _ _ (ne 0 2 (by omega)),
      readByte_writeByte_of_ne _ _ (ne 0 1 (by omega)), readByte_writeByte_self]
  · rw [readByte_writeByte_of_ne _ _ (ne 1 3 (by omega)),
      readByte_writeByte_of_ne _ _ (ne 1 2 (by omega)), readByte_writeByte_self]
  · rw [readByte_writeByte_of_ne _ _ (ne 2 3 (by omega)), readByte_writeByte_self]
  · exact readByte_writeByte_self _ _ _

end Sys2Proof.Machine
end

