-- ==== Sys2Proof/Laws/Numerics.lean ====
section
/-! SUPPORT. The fields of a word as numbers, and of a word put together from its sign and its lower
31 bits. -/

namespace Sys2Proof.Machine

theorem expField_eq (v : Word) : expField v = v.toNat / 2 ^ 23 % 2 ^ 8 := by
  simp [expField, BitVec.extractLsb'_toNat, Nat.shiftRight_eq_div_pow]

theorem fracField_eq (v : Word) : fracField v = v.toNat % 2 ^ 23 := by
  simp [fracField, BitVec.extractLsb'_toNat]

theorem signBit_eq (v : Word) : signBit v = decide (2 ^ 31 ≤ v.toNat) := by
  simp [signBit, BitVec.msb_eq_decide]

theorem packSign_toNat (sg : Bool) {bits : Nat} (h : bits < 2 ^ 31) :
    (packSign sg bits).toNat = if sg then 2 ^ 31 + bits else bits := by
  cases sg <;> simp [packSign] <;> omega

@[simp] theorem signBit_packSign (sg : Bool) {bits : Nat} (h : bits < 2 ^ 31) :
    signBit (packSign sg bits) = sg := by
  rw [signBit_eq, packSign_toNat sg h]
  cases sg <;> simp
  omega

theorem expField_packSign (sg : Bool) {bits : Nat} (h : bits < 2 ^ 31) :
    expField (packSign sg bits) = bits / 2 ^ 23 := by
  rw [expField_eq, packSign_toNat sg h]
  cases sg <;> simp <;> omega

theorem fracField_packSign (sg : Bool) {bits : Nat} (h : bits < 2 ^ 31) :
    fracField (packSign sg bits) = bits % 2 ^ 23 := by
  rw [fracField_eq, packSign_toNat sg h]
  cases sg <;> simp
  omega

/-- Every datum is its sign and its lower 31 bits. -/
theorem packSign_fields (v : Word) : packSign (signBit v) (v.toNat % 2 ^ 31) = v := by
  have hv := v.isLt
  apply BitVec.eq_of_toNat_eq
  rw [packSign_toNat _ (Nat.mod_lt _ (by decide)), signBit_eq]
  simp only [decide_eq_true_eq]
  split <;> omega

end Sys2Proof.Machine
end

