-- ==== Sys2Proof/Laws/PerInstr.lean ====
section
/-! SUPPORT. Statements made per instruction: the header word of every encoding matches its row of the
opcode table, by the row's own mask and pattern. -/

namespace Sys2Proof.Laws.Header

/-- The `mask` of the instruction's row of `opcode_table.json`, over `CW[0]`. -/
def rowMask : Instr → Word
  | .create _ => 0xFFFFFFFF
  | .release _ => 0xFFFFFFFF
  | .proc _ _ _ _ _ _ _ => 0xFFFFFFFF
  | .set _ _ _ => 0xFFFFFFFF
  | .get _ _ => 0xFFFFFFFF
  | .desc _ _ => 0xFFFFFFFF
  | .getbuf _ _ _ _ => 0xFFFFFFFF
  | .reserved00 _ => 0xFFFFFFFF
  | .reserved04To07 _ _ => 0xFFFFFFFC
  | .reserved08To0F _ _ => 0xFFFFFFF8
  | .reserved14To17 _ _ => 0xFFFFFFFC
  | .reserved18To1F _ _ => 0xFFFFFFF8
  | .reserved20To3F _ _ => 0xFFFFFFE0
  | .reserved40To7F _ _ => 0xFFFFFFC0
  | .reserved80ToFF _ _ => 0xFFFFFF80
  | .reservedRsvNonzero _ _ _ => 0x00000000

/-- The `match` of the instruction's row of `opcode_table.json`, over `CW[0]`. -/
def rowMatch : Instr → Word
  | .create _ => 0x00000001
  | .release _ => 0x00000002
  | .proc _ _ _ _ _ _ _ => 0x00000003
  | .set _ _ _ => 0x00000010
  | .get _ _ => 0x00000011
  | .desc _ _ => 0x00000012
  | .getbuf _ _ _ _ => 0x00000013
  | .reserved00 _ => 0x00000000
  | .reserved04To07 _ _ => 0x00000004
  | .reserved08To0F _ _ => 0x00000008
  | .reserved14To17 _ _ => 0x00000014
  | .reserved18To1F _ _ => 0x00000018
  | .reserved20To3F _ _ => 0x00000020
  | .reserved40To7F _ _ => 0x00000040
  | .reserved80ToFF _ _ => 0x00000080
  | .reservedRsvNonzero _ _ _ => 0x00000000

/-- Whether the row is the catch-all, tried last: the records with `RSV != 0`. -/
def catchAll : Instr → Bool
  | .reservedRsvNonzero _ _ _ => true
  | .create _ => false
  | .release _ => false
  | .proc _ _ _ _ _ _ _ => false
  | .set _ _ _ => false
  | .get _ _ => false
  | .desc _ _ => false
  | .getbuf _ _ _ _ => false
  | .reserved00 _ => false
  | .reserved04To07 _ _ => false
  | .reserved08To0F _ _ => false
  | .reserved14To17 _ _ => false
  | .reserved18To1F _ _ => false
  | .reserved20To3F _ _ => false
  | .reserved40To7F _ _ => false
  | .reserved80ToFF _ _ => false

/-- The encoded header matches the row, and `RSV` is zero exactly outside the catch-all. -/
abbrev Statement (i : Instr) : Prop :=
  i.wellFormed = true → encodeHeader i &&& rowMask i = rowMatch i ∧
    ((encodeHeader i).extractLsb' 8 24 = 0 ↔ catchAll i = false)

theorem create (p : Port) : Statement (.create p) := by cases p <;> decide
theorem release (p : Port) : Statement (.release p) := by cases p <;> decide
theorem proc (p : Port) (ib ob len ic oc rate : Word) : Statement (.proc p ib ob len ic oc rate) := by
  intro _
  simp [encodeHeader, rowMask, rowMatch, catchAll]
theorem set (p : Port) (index value : Word) : Statement (.set p index value) := by
  intro _
  simp [encodeHeader, rowMask, rowMatch, catchAll]
theorem get (p : Port) (index : Word) : Statement (.get p index) := by
  intro _
  simp [encodeHeader, rowMask, rowMatch, catchAll]
theorem desc (p : Port) (index : Word) : Statement (.desc p index) := by
  intro _
  simp [encodeHeader, rowMask, rowMatch, catchAll]
theorem getbuf (p : Port) (name buffer num : Word) : Statement (.getbuf p name buffer num) := by
  intro _
  simp [encodeHeader, rowMask, rowMatch, catchAll]
theorem reserved00 (p : Port) : Statement (.reserved00 p) := by cases p <;> decide
theorem reserved04To07 (p : Port) (low : BitVec 2) : Statement (.reserved04To07 p low) := by
  revert low
  cases p <;> decide
theorem reserved08To0F (p : Port) (low : BitVec 3) : Statement (.reserved08To0F p low) := by
  revert low
  cases p <;> decide
theorem reserved14To17 (p : Port) (low : BitVec 2) : Statement (.reserved14To17 p low) := by
  revert low
  cases p <;> decide
theorem reserved18To1F (p : Port) (low : BitVec 3) : Statement (.reserved18To1F p low) := by
  revert low
  cases p <;> decide
theorem reserved20To3F (p : Port) (low : BitVec 5) : Statement (.reserved20To3F p low) := by
  revert low
  cases p <;> decide
theorem reserved40To7F (p : Port) (low : BitVec 6) : Statement (.reserved40To7F p low) := by
  revert low
  cases p <;> decide
theorem reserved80ToFF (p : Port) (low : BitVec 7) : Statement (.reserved80ToFF p low) := by
  revert low
  cases p <;> decide
theorem reservedRsvNonzero (p : Port) (rsv : BitVec 24) (opc : BitVec 8) :
    Statement (.reservedRsvNonzero p rsv opc) := by
  intro h
  have hr : (rsv ++ opc).extractLsb' 8 24 = rsv := BitVec.extractLsb'_append_eq_left
  have hz : rsv ≠ 0 := by simpa [Instr.wellFormed] using h
  refine ⟨BitVec.and_zero, ?_⟩
  simp only [encodeHeader, catchAll, hr, hz, false_iff]
  decide

end Sys2Proof.Laws.Header
end

