-- ==== Sys2Proof/Laws/Step.lean ====
section
/-! SUPPORT. What the engine, the choice of the next agent and a whole step can do. -/

namespace Sys2Proof.Machine

/-! ### The engine -/

/-- The three arms of the engine step (`43_oscillator_mixer.md` R145). -/
theorem engineStep_cases {s t : State} (h : engineStep s = .next t) :
    (s.eng.n = s.eng.len ∧ t = s.stopEng.respond .main ResultCode.ok.response) ∨
    (s.eng.n ≠ s.eng.len ∧ s.eng.i = s.eng.oc ∧
      t = (s.setPhase (advance s.phaseS s.phaseC s.eng.w)).setEng s.eng.nextFrame) ∨
    (s.eng.n ≠ s.eng.len ∧ s.eng.i ≠ s.eng.oc ∧
      ∃ x, s.mayRead s.eng.inAddr = true ∧ s.mem.readWord s.eng.inAddr = some x ∧
        s.mayWrite s.eng.outAddr = true ∧
        t = (s.setMem (s.mem.writeWord s.eng.outAddr (s.outSample x))).setEng
          s.eng.nextChannel) := by
  unfold engineStep doneStep advanceStep sampleStep at h
  by_cases hn : s.eng.n = s.eng.len
  · rw [if_pos hn] at h
    cases h
    exact .inl ⟨hn, rfl⟩
  · rw [if_neg hn] at h
    by_cases hi : s.eng.i = s.eng.oc
    · rw [if_pos hi] at h
      cases h
      exact .inr (.inl ⟨hn, hi, rfl⟩)
    · rw [if_neg hi] at h
      split at h
      · next hr =>
        split at h
        · next x hx =>
          split at h
          · next hw =>
            cases h
            exact .inr (.inr ⟨hn, hi, x, hr, hx, hw, rfl⟩)
          · cases h
        · cases h
      · cases h

/-! ### Who moves -/

/-- The fields of the interleaving, which alone change when an agent is chosen. -/
def SameButTurn (s t : State) : Prop :=
  t = { s with schedule := t.schedule, draw := t.draw }

theorem mem_enabledAgents {s : State} {a : Agent} (h : a ∈ s.enabledAgents) :
    s.enabled a = true := (List.mem_filter.mp h).2

theorem chooseFree_enabled {s u : State} {a : Agent} (h : s.chooseFree = some (a, u)) :
    s.enabled a = true ∧ SameButTurn s u := by
  unfold State.chooseFree at h
  split at h
  · cases h
  · next b hb =>
    cases h
    exact ⟨mem_enabledAgents (by simp [hb]), rfl⟩
  · next b c rest hb =>
    simp only [Option.some.injEq, Prod.mk.injEq] at h
    obtain ⟨ha, hu⟩ := h
    refine ⟨mem_enabledAgents ?_, by subst hu; rfl⟩
    have hlt : Config.freeChoice s.draw % (rest.length + 2) < (b :: c :: rest).length :=
      Nat.mod_lt (Config.freeChoice s.draw) (Nat.succ_pos (rest.length + 1))
    rw [hb, ← ha, List.getD_eq_getElem _ _ hlt]
    exact List.getElem_mem hlt

theorem enabled_schedule (s : State) (sch : List Agent) (a : Agent) :
    ({ s with schedule := sch } : State).enabled a = s.enabled a := by
  cases a with
  | host p => cases p <;> rfl
  | main => rfl
  | engine => rfl
  | control => rfl

/-- The agent that moves has a step enabled, and choosing it changes only the interleaving's own
fields (`60_exceptions.md` R191). -/
theorem choose_enabled {s u : State} {a : Agent} (h : s.choose = some (a, u)) :
    s.enabled a = true ∧ SameButTurn s u := by
  unfold State.choose at h
  split at h
  · next b rest _ =>
    split at h
    · next hb =>
      cases h
      exact ⟨hb, rfl⟩
    · obtain ⟨h1, h2⟩ := chooseFree_enabled h
      rw [enabled_schedule] at h1
      exact ⟨h1, by simpa only [SameButTurn] using h2⟩
  · exact chooseFree_enabled h

/-- What a step can be: the idle core held as it is, or one step of one enabled agent. -/
theorem step_cases {s t : State} (h : step s = .next t) :
    (s.choose = none ∧ t = s) ∨
    ∃ a u, s.choose = some (a, u) ∧ s.enabled a = true ∧ SameButTurn s u ∧
      agentStep a u = .next t := by
  unfold step at h
  split at h
  · next a u hc =>
    exact .inr ⟨a, u, hc, (choose_enabled hc).1, (choose_enabled hc).2, h⟩
  · next hc =>
    cases h
    exact .inl ⟨hc, rfl⟩

end Sys2Proof.Machine
end

