-- ==== Sys2Proof/Tests/Slice0.lean ====
section
/-! SUPPORT. Tests of the model against words and values the spec writes out, and for every statement
with hypotheses a state and operands that meet them. -/

namespace Sys2Proof.Tests

open Sys2Proof Sys2Proof.Machine

/-! ### Helpers -/

/-- A field of the next state, if there is one. -/
def after {α : Type} (o : Outcome) (f : State → α) : Option α :=
  match o with
  | .next t => some (f t)
  | .fault _ => none
  | .refused _ => none

/-- The start state "created" of `95_test_vectors.md` section 0, with `P[2]` at some word. -/
def created : State :=
  { State.reset with live := true, p0 := 0x447A0000, p1 := 0x3F000000, phaseC := 0x3F800000 }

/-- `created` with memory holding words at consecutive addresses. -/
def withWords (s : State) (addr : Word) : List Word → State
  | [] => s
  | v :: vs => withWords { s with mem := s.mem.writeWord addr v } (addr + 1) vs

/-- A running `PROC` of port `MAIN` at frame `n`, channel `i`, with `W`, `M`, `A` as given. -/
def running (s : State) (ib ob len oc w m a n i : Word) : State :=
  { s with
    eng := ⟨true, ib, ob, len, oc, w, m, a, n, i⟩
    main := ⟨some ⟨3, ib, ob, len, oc, oc, 0x472C4400⟩, none, []⟩ }

/-- V1 at its second frame (`95_test_vectors.md` V1): sample step to come. -/
def v1Frame1 : State :=
  { running (withWords created 0x1000 [0x3F800000, 0x3F800000, 0x3F800000, 0x3F800000])
      0x1000 0x2000 4 1 0x3E11C59C 0x3F000000 0x3F000000 1 0 with
    phaseS := 0x3E11C59C, phaseC := 0x3F7ACFE9 }

/-! ### Well-formedness and decoding -/

theorem test_zero_rsv_is_ill_formed :
    (Instr.reservedRsvNonzero .main 0 1).wellFormed = false := by decide

theorem test_nonzero_rsv_is_well_formed :
    (Instr.reservedRsvNonzero .main 1 1).wellFormed = true := by decide

/-- `30_encoding.md` R70 to R72 and R82, family of `MAIN`. -/
theorem test_decode_main_words :
    decode .main ⟨0b00000000000000000000000000000001, 9, 8, 7, 6, 5, 4⟩ = .create .main ∧
    decode .main ⟨0b00000000000000000000000000000010, 9, 8, 7, 6, 5, 4⟩ = .release .main ∧
    decode .main ⟨0b00000000000000000000000000000011, 0x1000, 0x2000, 4, 1, 2, 0x472C4400⟩ =
      .proc .main 0x1000 0x2000 4 1 2 0x472C4400 := by decide

/-- `30_encoding.md` R73 to R76, family of `CTRL`. -/
theorem test_decode_ctrl_words :
    decode .ctrl ⟨0b00000000000000000000000000010000, 1, 0x3E800000, 7, 7, 7, 7⟩ =
      .set .ctrl 1 0x3E800000 ∧
    decode .ctrl ⟨0b00000000000000000000000000010001, 2, 7, 7, 7, 7, 7⟩ = .get .ctrl 2 ∧
    decode .ctrl ⟨0b00000000000000000000000000010010, 1, 7, 7, 7, 7, 7⟩ = .desc .ctrl 1 ∧
    decode .ctrl ⟨0b00000000000000000000000000010011, 7, 0x3000, 0x100, 7, 7, 7⟩ =
      .getbuf .ctrl 7 0x3000 0x100 := by decide

/-- `30_encoding.md` R69, R77; `95_test_vectors.md` T7: a word of each reserved row, at its ends. -/
theorem test_decode_reserved_words :
    decode .main ⟨0x00, 0, 0, 0, 0, 0, 0⟩ = .reserved00 .main ∧
    decode .main ⟨0x04, 0, 0, 0, 0, 0, 0⟩ = .reserved04To07 .main 0 ∧
    decode .main ⟨0x07, 0, 0, 0, 0, 0, 0⟩ = .reserved04To07 .main 3 ∧
    decode .main ⟨0x08, 0, 0, 0, 0, 0, 0⟩ = .reserved08To0F .main 0 ∧
    decode .main ⟨0x0F, 0, 0, 0, 0, 0, 0⟩ = .reserved08To0F .main 7 ∧
    decode .ctrl ⟨0x14, 0, 0, 0, 0, 0, 0⟩ = .reserved14To17 .ctrl 0 ∧
    decode .ctrl ⟨0x17, 0, 0, 0, 0, 0, 0⟩ = .reserved14To17 .ctrl 3 ∧
    decode .ctrl ⟨0x1D, 0, 0, 0, 0, 0, 0⟩ = .reserved18To1F .ctrl 5 ∧
    decode .ctrl ⟨0x20, 0, 0, 0, 0, 0, 0⟩ = .reserved20To3F .ctrl 0 ∧
    decode .ctrl ⟨0x3F, 0, 0, 0, 0, 0, 0⟩ = .reserved20To3F .ctrl 31 ∧
    decode .ctrl ⟨0x40, 0, 0, 0, 0, 0, 0⟩ = .reserved40To7F .ctrl 0 ∧
    decode .ctrl ⟨0x7F, 0, 0, 0, 0, 0, 0⟩ = .reserved40To7F .ctrl 63 ∧
    decode .ctrl ⟨0x80, 0, 0, 0, 0, 0, 0⟩ = .reserved80ToFF .ctrl 0 ∧
    decode .ctrl ⟨0xFF, 0, 0, 0, 0, 0, 0⟩ = .reserved80ToFF .ctrl 127 ∧
    decode .main ⟨0x00000101, 0, 0, 0, 0, 0, 0⟩ = .reservedRsvNonzero .main 1 1 ∧
    decode .ctrl ⟨0x80000011, 0, 0, 0, 0, 0, 0⟩ = .reservedRsvNonzero .ctrl 0x800000 0x11 := by
  decide

/-- `30_encoding.md` R60: a record has seven words. -/
theorem test_six_words_are_rejected :
    decodeWords .main [1, 0, 0, 0, 0, 0] = .rejected (.wrongLength 6) := by decide

/-- `30_encoding.md` R60: the words are numbered from the lowest bits up. -/
theorem test_table_word_numbering :
    decodeTableWord 224 0x472C440000000002000000010000000400002000_00001000_00000003 =
      some (.proc .main 0x1000 0x2000 4 1 2 0x472C4400) ∧
    decodeTableWord 32 0x11 = some (.get .ctrl 0) := by decide

/-- `opcode_table.json`: no two of the fifteen rows with a mask overlap. -/
theorem test_rows_do_not_overlap :
    ([(0xFFFFFFFF, 1), (0xFFFFFFFF, 2), (0xFFFFFFFF, 3), (0xFFFFFFFF, 0x10), (0xFFFFFFFF, 0x11),
      (0xFFFFFFFF, 0x12), (0xFFFFFFFF, 0x13), (0xFFFFFFFF, 0), (0xFFFFFFFC, 4), (0xFFFFFFF8, 8),
      (0xFFFFFFFC, 0x14), (0xFFFFFFF8, 0x18), (0xFFFFFFE0, 0x20), (0xFFFFFFC0, 0x40),
      (0xFFFFFF80, 0x80)] : List (Word × Word)).Pairwise
      fun a b => (a.2 ^^^ b.2) &&& (a.1 &&& b.1) ≠ 0 := by decide

/-! ### Arithmetic (`95_test_vectors.md` T1) -/

theorem test_fadd :
    fadd 0x3F800000 0xBF800000 = 0x00000000 ∧ fadd 0x80000000 0x80000000 = 0x80000000 ∧
    fadd 0x80000000 0x00000000 = 0x00000000 ∧ fadd 0x7F800000 0xFF800000 = 0x7FC00000 ∧
    fadd 0x3F800000 0x33800000 = 0x3F800000 ∧ fadd 0x3F800001 0x33800000 = 0x3F800002 ∧
    fadd 0x3F800000 0x33800001 = 0x3F800001 := by decide

theorem test_fsub :
    fsub 0x3F800000 0x3F800000 = 0x00000000 ∧ fsub 0x80000000 0x00000000 = 0x80000000 ∧
    fsub 0x3F800000 0x3DCCCCCD = 0x3F666666 := by decide

theorem test_fmul :
    fmul 0x00000000 0x7F800000 = 0x7FC00000 ∧ fmul 0x7F7FFFFF 0x40000000 = 0x7F800000 ∧
    fmul 0x00000001 0x3F000000 = 0x00000000 ∧ fmul 0x00000003 0x3F000000 = 0x00000002 ∧
    fmul 0x00800000 0x3F000000 = 0x00400000 ∧ fmul 0x7FA12345 0x3F800000 = 0x7FC00000 ∧
    fmul 0xFFC00001 0x3F800000 = 0x7FC00000 ∧ fmul 0x40490FDB 0x447A0000 = 0x4544597C := by decide

theorem test_fdiv :
    fdiv 0x3F800000 0x40400000 = 0x3EAAAAAB ∧ fdiv 0x3F800000 0x00000000 = 0x7F800000 ∧
    fdiv 0xBF800000 0x00000000 = 0xFF800000 ∧ fdiv 0x00000000 0x80000000 = 0x7FC00000 ∧
    fdiv 0x3F800000 0x7F800000 = 0x00000000 ∧ fdiv 0x4544597C 0x472C4400 = 0x3D91E531 := by decide

/-- `95_test_vectors.md` V20: the second form of the formula would give 0x3E23842D. T3, T4 rows. -/
theorem test_mix :
    mixSample 0x3F333333 0x3DCCCCD0 0x3F666666 0x3E11C59C = 0x3E23842E ∧
    mixSample 0x80000000 0x3F800000 0x00000000 0xBF400000 = 0x00000000 ∧
    mixSample 0x3F800000 0x40000000 0xBF800000 0x3F000000 = 0x3FC00000 := by decide

/-- `95_test_vectors.md` T5: the new sine component goes into the cosine component. -/
theorem test_advance :
    advance 0x3E11C59C 0x3F7ACFE9 0x3E11C59C = (0x3E904B7D, 0x3F708AA4) ∧
    advance 0x3FB504F3 0xBF7FFFFE 0x3FB504F3 = (0x34000000, 0xBF800000) ∧
    advance 0x7F61B1E6 0x7F61B1E6 0x40000000 = (0x7F800000, 0xFF800000) := by decide

/-- `95_test_vectors.md` T2, premise SP1: with the assumed sine the latched step is 0x3E11C59C. -/
theorem test_angular_step_sp1 (h : sin32 0x3D91E531 = 0x3D91C59C) :
    angularStep 0x447A0000 0x472C4400 = 0x3E11C59C := by
  have hx : fdiv (fmul pi32 0x447A0000) 0x472C4400 = 0x3D91E531 := by decide
  rw [angularStep, hx, h]
  decide

/-- `95_test_vectors.md` T2: a zero rate gives an infinite argument and a NaN step; an infinite rate
gives `+0`. -/
theorem test_angular_step_without_premise :
    angularStep 0x447A0000 0x00000000 = 0x7FC00000 ∧
    angularStep 0x447A0000 0x7F800000 = 0x00000000 ∧
    angularStep 0x80000000 0x472C4400 = 0x80000000 := by decide

/-! ### One step of each instruction -/

/-- `95_test_vectors.md` V21. -/
theorem test_create :
    after (exec (.create .main) State.reset) (fun t =>
      (t.live, t.p0, t.p1, t.phaseS, t.phaseC, t.main)) =
    some (true, 0x447A0000, 0x3F000000, 0x00000000, 0x3F800000,
      ⟨none, some ⟨0, 0, 0, 0, 0, 0⟩, []⟩) := by decide

/-- `95_test_vectors.md` V23, V22. -/
theorem test_release :
    after (exec (.release .main) created) (fun t => (t.live, t.main.resp)) =
      some (false, some ⟨0, 0, 0, 0, 0, 0⟩) ∧
    after (exec (.release .main) State.reset) (fun t => t.main.resp) =
      some (some ⟨2, 0, 0, 0, 0, 0⟩) := by decide

/-- `95_test_vectors.md` V33, T6: index 2 is accepted, 3, -1 and 258 are not. -/
theorem test_set :
    after (exec (.set .ctrl 2 0x3F400000) created) (fun t => (t.p0, t.p1, t.p2, t.ctrl.resp)) =
      some (0x447A0000, 0x3F000000, 0x3F400000, some ⟨0, 0, 0, 0, 0, 0⟩) ∧
    after (exec (.set .ctrl 3 0x3F400000) created) (fun t => t) =
      some { created with ctrl := ⟨none, some ⟨1, 0, 0, 0, 0, 0⟩, []⟩ } ∧
    after (exec (.set .ctrl 0xFFFFFFFF 0x3F400000) created) (fun t => t.ctrl.resp) =
      some (some ⟨1, 0, 0, 0, 0, 0⟩) := by decide

/-- `95_test_vectors.md` V32, T6, T7: raw words come back; the whole index word is compared. -/
theorem test_get :
    after (exec (.get .ctrl 0) { created with p0 := 0x7FA12345 }) (fun t => t.ctrl.resp) =
      some (some ⟨0, 0x7FA12345, 0, 0, 0, 0⟩) ∧
    after (exec (.get .ctrl 0x00000102) created) (fun t => t.ctrl.resp) =
      some (some ⟨1, 0, 0, 0, 0, 0⟩) := by decide

/-- `95_test_vectors.md` V35. -/
theorem test_desc :
    after (exec (.desc .ctrl 0) created) (fun t => t.ctrl.resp) =
      some (some ⟨0, 0x00000000, 0x46AC4400, 0x447A0000, 0x3F800000, 0x40400000⟩) ∧
    after (exec (.desc .ctrl 1) created) (fun t => t.ctrl.resp) =
      some (some ⟨0, 0x00000000, 0x3F800000, 0x3F000000, 0x3F800000, 0x3F800000⟩) ∧
    after (exec (.desc .ctrl 2) created) (fun t => t.ctrl.resp) =
      some (some ⟨1, 0, 0, 0, 0, 0⟩) := by decide

/-- `95_test_vectors.md` V45. -/
theorem test_getbuf :
    after (exec (.getbuf .ctrl 7 0x3000 0x100) created) (fun t => t) =
      some { created with ctrl := ⟨none, some ⟨0, 0, 0, 0, 0, 0⟩, []⟩ } ∧
    after (exec (.getbuf .ctrl 7 0x3000 0x100) State.reset) (fun t => t.ctrl.resp) =
      some (some ⟨2, 0, 0, 0, 0, 0⟩) := by decide

/-- `95_test_vectors.md` V2, its start step (`W` needs S2 only). -/
theorem test_proc_start :
    after (exec (.proc .main 0x100 0x200 2 2 2 0x473B8000)
      { created with p0 := 0x00000000, p1 := 0x3E800000 }) (fun t => (t.eng, t.main.resp)) =
    some (⟨true, 0x100, 0x200, 2, 2, 0x00000000, 0x3E800000, 0x3F400000, 0, 0⟩, none) := by
  have w : angularStep 0x00000000 0x473B8000 = 0x00000000 := by decide
  have a : fsub one32 0x3E800000 = 0x3F400000 := by decide
  show some (Eng.start 0x100 0x200 2 2 0x473B8000 0x00000000 0x3E800000, none) = _
  rw [Eng.start, w, a]

/-- `95_test_vectors.md` V15. -/
theorem test_proc_without_instance :
    after (exec (.proc .main 0x1000 0x2000 4 1 1 0x472C4400) State.reset) (fun t => t) =
      some { State.reset with main := ⟨none, some ⟨2, 0, 0, 0, 0, 0⟩, []⟩ } := by decide

/-- `95_test_vectors.md` T7: `SET` on `MAIN`, `PROC` on `CTRL`. -/
theorem test_wrong_port :
    after (exec (.set .main 0 0x3F800000) created) (fun t => (t.p0, t.main.resp)) =
      some (0x447A0000, some ⟨3, 0, 0, 0, 0, 0⟩) ∧
    after (exec (.proc .ctrl 0x1000 0x2000 4 1 1 0x472C4400) created)
      (fun t => (t.eng.run, t.ctrl.resp)) = some (false, some ⟨3, 0, 0, 0, 0, 0⟩) := by decide

/-- `95_test_vectors.md` T7: 0x04 is no phase reset, and `RSV` is tested before `LIVE`. -/
theorem test_reserved :
    after (exec (.reserved04To07 .main 0) created) (fun t => (t.phaseC, t.main.resp)) =
      some (0x3F800000, some ⟨3, 0, 0, 0, 0, 0⟩) ∧
    after (exec (.reservedRsvNonzero .ctrl 1 0x10) State.reset) (fun t => t.ctrl.resp) =
      some (some ⟨3, 0, 0, 0, 0, 0⟩) := by decide

/-! ### Engine steps -/

/-- `95_test_vectors.md` V1, frame 1: the sample written at 0x2001. -/
theorem test_sample_step :
    after (engineStep v1Frame1) (fun t => (t.mem.readWord 0x2001, t.eng.i, t.phaseS)) =
      some (some 0x3F1238B4, 1, 0x3E11C59C) := by decide

/-- `95_test_vectors.md` V1, frame 1: its advance step. -/
theorem test_advance_step :
    after (engineStep { v1Frame1 with eng := { v1Frame1.eng with i := 1 } })
      (fun t => (t.phaseS, t.phaseC, t.eng.n, t.eng.i)) =
      some (0x3E904B7D, 0x3F708AA4, 2, 0) := by decide

/-- `95_test_vectors.md` V14: with `in_channels = 7` frame 1 of V1 is as it was. -/
theorem test_in_channels_is_ignored :
    after (engineStep { v1Frame1 with main := ⟨some ⟨3, 0x1000, 0x2000, 4, 7, 1, 0x472C4400⟩, none, []⟩ })
      (fun t => t.mem.readWord 0x2001) = some (some 0x3F1238B4) := by decide

/-- `95_test_vectors.md` V8: a block of no frames is done at once. -/
theorem test_done_step :
    after (engineStep (running created 0x100 0x200 0 2 0x3E11C59C 0x3F000000 0x3F000000 0 0))
      (fun t => (t.eng.run, t.main.resp, t.phaseS, t.phaseC)) =
      some (false, some ⟨0, 0, 0, 0, 0, 0⟩, 0x00000000, 0x3F800000) := by decide

/-- `95_test_vectors.md` V9: the second read wraps to address 0 and is written at 0x80000000. -/
theorem test_address_wraps :
    after (engineStep (running (withWords created 0xFFFFFFFF [0x3FC00000, 0x40200000])
      0xFFFFFFFF 0x7FFFFFFF 2 1 0x3E11C59C 0x00000000 0x3F800000 1 0))
      (fun t => t.mem.readWord 0x80000000) = some (some 0x40200000) := by decide

/-! ### Whole steps -/

/-- From reset nothing happens until a command is placed (`70_reset_and_hazards.md` R201). -/
theorem test_reset_is_idle : after (step State.reset) id = some State.reset := by decide

/-- A command placed as a table word is what the next step runs. -/
theorem test_fetch_word_runs :
    after (step (State.reset.withFetchWord 32 0x01)) (fun t => (t.live, t.main.cmd)) =
      some (true, none) ∧
    after (step (State.reset.withFetchWord 32 0x10)) (fun t => t.ctrl.resp) =
      some (some ⟨2, 0, 0, 0, 0, 0⟩) ∧
    after (step (State.reset.withFetchWord 32 0x80)) (fun t => t.main.resp) =
      some (some ⟨3, 0, 0, 0, 0, 0⟩) := by decide

/-- `95_test_vectors.md` V16: `PROC` on `MAIN` and `SET 1, 0.0` on `CTRL`, with rate `+inf` for a step
that needs no premise. -/
def v16 (order : List Agent) : State :=
  { created with
    main := ⟨some ⟨3, 0x100, 0x200, 2, 1, 1, 0x7F800000⟩, none, []⟩
    ctrl := ⟨some ⟨0x10, 1, 0, 0, 0, 0, 0⟩, none, []⟩
    schedule := order }

/-- Both orders of V16 are taken, and latch the two values of `mix`. -/
theorem test_both_orders :
    (match step (v16 [.control, .main]) with
      | .next t => after (step t) (fun u => (u.eng.m, u.eng.a))
      | _ => none) = some (0x00000000, 0x3F800000) ∧
    (match step (v16 [.main, .control]) with
      | .next t => after (step t) (fun u => (u.eng.m, u.eng.a, u.p1))
      | _ => none) = some (0x3F000000, 0x3F000000, 0x00000000) := by decide

/-! ### Witnesses: for every statement with hypotheses, what meets them -/

/-- A port with a record placed on it by its caller. -/
def holding (cw : Record) : PortState := ⟨some cw, none, []⟩

theorem witness_DecodeEncodeAgree :
    (Instr.reservedRsvNonzero .ctrl 0xFFFFFF 0xFF).wellFormed = true ∧
    (Instr.set .ctrl 2 0xFFFFFFFF).wellFormed = true := by decide

theorem witness_IgnoredWordsHaveNoEffect :
    SameUsedWords ⟨3, 1, 2, 3, 4, 5, 6⟩ ⟨3, 1, 2, 3, 0xFFFFFFFF, 5, 6⟩ ∧
    SameUsedWords ⟨0x10, 1, 2, 3, 4, 5, 6⟩ ⟨0x10, 1, 2, 0, 0, 0, 0⟩ ∧
    SameUsedWords ⟨0x11, 1, 2, 3, 4, 5, 6⟩ ⟨0x11, 1, 0, 0, 0, 0, 0⟩ ∧
    SameUsedWords ⟨0x12, 1, 2, 3, 4, 5, 6⟩ ⟨0x12, 1, 0, 0, 0, 0, 0⟩ ∧
    SameUsedWords ⟨0x13, 1, 2, 3, 4, 5, 6⟩ ⟨0x13, 0, 0, 0, 0, 0, 0⟩ := by
  simp [SameUsedWords]

theorem witness_ReservedEncodingAnswersBadCommand :
    IsReserved .main ⟨0x00000101, 0, 0, 0, 0, 0, 0⟩ ∧
    IsReserved .main ⟨0x00000000, 0, 0, 0, 0, 0, 0⟩ ∧
    IsReserved .ctrl ⟨0x00000014, 0, 0, 0, 0, 0, 0⟩ ∧
    IsReserved .ctrl ⟨0x00000003, 0, 0, 0, 0, 0, 0⟩ ∧
    IsReserved .main ⟨0x00000010, 0, 0, 0, 0, 0, 0⟩ := by
  unfold IsReserved
  decide

theorem witness_ResetEventDiscardsCommands :
    (({ created with ctrl := ⟨some ⟨4, 0, 0, 0, 0, 0, 0⟩, none, [.reset]⟩ } : State).port .ctrl).todo =
      .reset :: [] := rfl

theorem witness_live_and_not_live : created.live = true ∧ State.reset.live = false := by decide

/-- Index words on the edges of the clauses of `SET`, `GET` and `DESC`. -/
theorem witness_index_edges :
    (0xFFFFFFFF : Word).toInt < 0 ∧ (0x80000000 : Word).toInt < 0 ∧ (3 : Word).toInt > 2 ∧
    (0x7FFFFFFF : Word).toInt > 2 ∧ (2 : Word).toInt ≥ 2 ∧
    ¬ ((2 : Word).toInt < 0 ∨ (2 : Word).toInt > 2) ∧
    ¬ ((1 : Word).toInt < 0 ∨ (1 : Word).toInt ≥ 2) := by decide

theorem witness_DescAnswersTheDescriptor : RomFixed created ∧ created.live = true := by
  unfold RomFixed
  decide

/-- A `SET 1`, then a step of the main agent answering a reserved encoding, is a quiet run. -/
theorem witness_GetReturnsWhatSetWrote :
    ∃ t u, exec (.set .ctrl 1 0x7FA12345)
        { created with main := holding ⟨4, 0, 0, 0, 0, 0, 0⟩ } = .next t ∧
      QuietRun 1 t u ∧ u.main.resp = some ⟨3, 0, 0, 0, 0, 0⟩ := by
  refine ⟨_, _, rfl, .tail (.refl _) (a := .main) rfl ⟨?_, ?_, ?_⟩ rfl, rfl⟩
  · intro p h
    cases h
  · intro cw _ h
    cases h
    decide
  · intro cw h
    cases h

theorem witness_ResultCodePriority :
    served (.set .main 0 0) = false ∧ served (.reserved00 .main) = false ∧
    served (.set .ctrl 7 0) = true ∧ Instr.set .ctrl 7 0 ≠ .create .main ∧
    badIndex (.set .ctrl 7 0) ∧ badIndex (.desc .ctrl 2) ∧ ¬ badIndex (.get .ctrl 2) ∧
    served (.proc .main 0 0 0 0 0 0) = true ∧
    (∀ ib ob len ic oc rate, Instr.set .ctrl 2 0 ≠ .proc .main ib ob len ic oc rate) := by
  refine ⟨by decide, by decide, by decide, by decide, ?_, ?_, ?_, by decide, ?_⟩
  · unfold badIndex
    decide
  · unfold badIndex
    decide
  · unfold badIndex
    decide
  · intro _ _ _ _ _ _ h
    cases h

theorem witness_FailedCommandLeavesNoTrace :
    (created.port (Instr.set .ctrl 3 0).port).resp = none ∧
    ∃ t r, exec (.set .ctrl 3 0) created = .next t ∧
      (t.port (Instr.set .ctrl 3 0).port).resp = some r ∧ r.res ≠ 0x00000000 :=
  ⟨rfl, _, _, rfl, rfl, by decide⟩

/-- A state that meets every invariant while a `PROC` runs, `CTRL` holds a command and the engine is
next, and the step it makes. -/
theorem witness_invariants_while_running :
    EngineCoherent { v1Frame1 with ctrl := holding ⟨0x11, 0, 0, 0, 0, 0, 0⟩, schedule := [.engine] } ∧
    RomFixed v1Frame1 ∧ MemoryCanonical v1Frame1 ∧ v1Frame1.eng.run = true ∧
    (after (step { v1Frame1 with ctrl := holding ⟨0x11, 0, 0, 0, 0, 0, 0⟩, schedule := [.engine] })
      fun t => t.ctrl.cmd) = some (some ⟨0x11, 0, 0, 0, 0, 0, 0⟩) := by
  refine ⟨fun _ => ⟨_, rfl, ?_⟩, ?_, ?_, rfl, ?_⟩
  · decide
  · unfold RomFixed
    decide
  · unfold MemoryCanonical
    decide
  · decide

theorem witness_PortsLegal :
    PortsLegal { created with ctrl := ⟨none, some ⟨1, 0, 0, 0, 0, 0⟩, []⟩
                              main := holding ⟨1, 0, 0, 0, 0, 0, 0⟩ } := by
  intro p
  cases p
  · exact ⟨fun _ => rfl, fun r h => by cases h⟩
  · refine ⟨fun h => (by cases h), fun r h => ?_⟩
    cases h
    unfold LegalResponse
    decide

theorem witness_CellsChangeOnlyBySetLifecycleOrReset :
    ∃ t, exec (.set .ctrl 1 5) created = .next t ∧ Instr.set .ctrl 1 5 ≠ .create .main ∧
      Instr.set .ctrl 1 5 ≠ .release .main ∧ (∀ v, Instr.set .ctrl 1 5 ≠ .set .ctrl 0 v) :=
  ⟨_, rfl, by decide, by decide, fun v h => by cases h⟩

theorem witness_CellPastTheEndIsIsolated :
    Instr.get .ctrl 1 ≠ .get .ctrl 2 ∧ ∃ t, exec (.get .ctrl 1) created = .next t :=
  ⟨by decide, _, rfl⟩

theorem witness_engine_arms :
    (running created 0 0 2 2 0 0 0 2 0).eng.n = (running created 0 0 2 2 0 0 0 2 0).eng.len ∧
    ((running created 0 0 2 2 0 0 0 1 2).eng.n ≠ (running created 0 0 2 2 0 0 0 1 2).eng.len ∧
      (running created 0 0 2 2 0 0 0 1 2).eng.i = (running created 0 0 2 2 0 0 0 1 2).eng.oc) := by
  decide

/-- The sample step's hypotheses, and that the step answers a next state. -/
theorem witness_SampleStepMixes :
    v1Frame1.eng.n ≠ v1Frame1.eng.len ∧ v1Frame1.eng.i ≠ v1Frame1.eng.oc ∧
    v1Frame1.mayRead (v1Frame1.eng.ib + (v1Frame1.eng.n * v1Frame1.eng.oc + v1Frame1.eng.i)) = true ∧
    v1Frame1.mayWrite (v1Frame1.eng.ob + (v1Frame1.eng.n * v1Frame1.eng.oc + v1Frame1.eng.i)) =
      true ∧
    v1Frame1.mem.readWord (v1Frame1.eng.ib + (v1Frame1.eng.n * v1Frame1.eng.oc + v1Frame1.eng.i)) =
      some 0x3F800000 ∧
    (after (engineStep v1Frame1) fun t => t.eng.run) = some true := by decide

/-- A running `PROC` whose record names one input channel, and two output channels. -/
def mismatched : State :=
  { running (withWords created 0x100 [0x3F800000, 0x3F800000]) 0x100 0x200 1 2 0 0 0 0 1 with
    main := holding ⟨3, 0x100, 0x200, 1, 1, 2, 0x472C4400⟩ }

/-- A sample step with no contents to read, one whose word is past the input buffer of the host
(`93_implementation_defined.md` U3), and, off every run, one whose word is not lent for writing. -/
theorem witness_OnlyARefusedAccessFaults :
    step (running created 0x100 0x200 1 1 0 0 0 0 0) = .fault (.unbackedRead 0x100) ∧
    step mismatched = .fault (.unlentRead 0x101) ∧
    step { running (withWords created 0x100 [0]) 0x100 0x300 1 1 0 0 0 0 0 with
      main := holding ⟨3, 0x100, 0x200, 1, 1, 1, 0⟩ } = .fault (.unlentWrite 0x300) :=
  ⟨rfl, rfl, rfl⟩

/-- The host has no move that issues the mismatched call, and one that issues the call of
`95_test_vectors.md` V14 and one whose input wraps, as V9's does. -/
theorem witness_StepKeepsTheCallCovered :
    created.hostMay .main (.issue ⟨3, 0x100, 0x200, 1, 1, 2, 0x472C4400⟩) = false ∧
    created.hostMay .main (.issue ⟨3, 0x1000, 0x2000, 4, 7, 1, 0x472C4400⟩) = true ∧
    created.hostMay .main (.issue ⟨3, 0xFFFFFFFF, 0x7FFFFFFF, 2, 1, 1, 0x472C4400⟩) = true ∧
    created.hostMay .ctrl (.issue ⟨3, 0x100, 0x200, 1, 1, 2, 0x472C4400⟩) = true ∧
    (after (step { created with main := ⟨none, none, [.issue ⟨3, 0, 0, 4, 7, 1, 0⟩]⟩ })
      fun t => t.main.cmd) = some (some ⟨3, 0, 0, 4, 7, 1, 0⟩) := by decide

theorem witness_CallCovered : CallCovered v1Frame1 ∧ CallCovered State.reset := by
  constructor <;> intro cw h <;> cases h
  decide

/-- The whole input of V1's block has contents. -/
theorem witness_ReadableInputNeverFaults :
    EngineCoherent v1Frame1 ∧ CallCovered v1Frame1 ∧ InputReadable v1Frame1 ∧
      v1Frame1.eng.run = true := by
  refine ⟨fun _ => ⟨_, rfl, by decide⟩, witness_CallCovered.1, fun _ k hk => ?_, rfl⟩
  have hk' : k < 4 := hk
  interval_cases k <;> exact ⟨0x3F800000, by decide⟩

theorem witness_OffsetsAreDistinct :
    (0x10000 : Word).toNat * (0x10000 : Word).toNat ≤ 2 ^ 32 ∧
    (0xFFFF : Word).toNat < (0x10000 : Word).toNat ∧
    offset 0x10000 0xFFFF 0xFFFF = offset 0x10000 0xFFFF 0xFFFF := by decide

/-- A live core with one word of input at 0x100, and `MAIN` holding a `PROC` of that word. -/
def oneWord : State :=
  { withWords created 0x100 [0x3F800000] with
    main := holding ⟨3, 0x100, 0x200, 1, 1, 1, 0x472C4400⟩ }

/-- The hypotheses for `oneWord`, in place and apart. -/
theorem witness_ProcComputesTheBlock :
    oneWord.live = true ∧
    (1 : Word).toNat * (1 : Word).toNat ≤ 2 ^ 32 ∧
    InPlaceOrDisjoint 0x100 0x100 ((1 : Word).toNat * (1 : Word).toNat) ∧
    InPlaceOrDisjoint 0x100 0x200 ((1 : Word).toNat * (1 : Word).toNat) ∧
    Readable oneWord.mem 0x100 ((1 : Word).toNat * (1 : Word).toNat) ∧
    oneWord.main.cmd = some ⟨0x00000003, 0x100, 0x200, 1, 1, 1, 0x472C4400⟩ ∧
    callCovered ⟨0x00000003, 0x100, 0x200, 1, 1, 1, 0x472C4400⟩ = true ∧
    ∃ t, exec (.proc .main 0x100 0x200 1 1 1 0x472C4400) oneWord = .next t := by
  refine ⟨rfl, by decide, .inl rfl, .inr ?_, ?_, rfl, by decide, _, rfl⟩
  · intro j hj k hk
    have hj' : j = 0 := Nat.lt_one_iff.mp hj
    have hk' : k = 0 := Nat.lt_one_iff.mp hk
    subst hj' hk'
    decide
  · intro k hk
    have hk' : k = 0 := Nat.lt_one_iff.mp hk
    subst hk'
    exact ⟨0x3F800000, by decide⟩

/-- Two blocks of one frame and one channel: the single run completes. -/
theorem witness_TwoBlocksEqualOne :
    created.live = true ∧ (1 : Word).toNat + (1 : Word).toNat < 2 ^ 32 ∧
    (1 : Word).toNat ≤ (1 : Word).toNat ∧
    ∃ t v, exec (.proc .main 0x100 0x200 (1 + 1) 1 1 0x7F800000)
        ((withWords created 0x100 [0, 0]).place .main
          ⟨0x00000003, 0x100, 0x200, 1 + 1, 1, 1, 0x7F800000⟩) = .next t ∧
      engineRun (((1 : Word).toNat + (1 : Word).toNat) * ((1 : Word).toNat + 1) + 1) t = .next v :=
  ⟨rfl, by decide, by decide, _, _, rfl, rfl⟩

theorem witness_ControlStepsCommuteWithEngineSteps :
    (Instr.set .ctrl 1 0).port = .ctrl ∧ ∃ t, engineStep v1Frame1 = .next t := ⟨rfl, _, rfl⟩

/-- The hypothesis of the clause about faults. -/
theorem witness_ControlStepsCommute_fault :
    engineStep (running created 0x100 0x200 1 1 0 0 0 0 0) = .fault (.unbackedRead 0x100) := by rfl

theorem witness_StepRunsTheDecodedInstruction :
    (∃ t, (v16 [.main]).choose = some (.main, t) ∧
      t.main.cmd = some ⟨3, 0x100, 0x200, 2, 1, 1, 0x7F800000⟩) ∧
    (∃ t, (v16 [.control]).choose = some (.control, t) ∧
      t.ctrl.cmd = some ⟨0x10, 1, 0, 0, 0, 0, 0⟩) ∧
    (∃ t, v1Frame1.choose = some (.engine, t)) :=
  ⟨⟨_, rfl, rfl⟩, ⟨_, rfl, rfl⟩, ⟨_, rfl⟩⟩

theorem witness_AnyEnabledAgentMayMove :
    (v16 []).enabled .main = true ∧ (v16 []).enabled .control = true ∧
    State.reset.choose = none := by decide

theorem witness_FinishedRunIsIdle : RunOver created := by
  unfold RunOver
  decide

/-- Each of the changes of the phase that the statement names does happen. -/
theorem witness_PhaseChangesOnlyByAdvanceOrLifecycle :
    (after (step (running { created with schedule := [] } 0 0 1 0 0x3E11C59C 0 0 0 0))
      fun t => t.phaseS) = some 0x3E11C59C ∧
    (after (step { created with main := holding ⟨1, 0, 0, 0, 0, 0, 0⟩, phaseS := 1 })
      fun t => t.phaseS) = some 0 := by decide

/-- A store of the host, and a word it may not store to while a `PROC` holds it lent. -/
theorem witness_MemoryChangesOnlyBySampleOrStore :
    (after (step { created with main := ⟨none, none, [.store 0x100 0x3F800000]⟩ })
      fun t => t.mem.readWord 0x100) = some (some 0x3F800000) ∧
    v1Frame1.lent 0x1003 = true ∧ v1Frame1.lent 0x1004 = false ∧
    v1Frame1.hostMay .main (.store 0x2000 0) = false := by decide

theorem witness_HeldCommandIsNeverReplaced :
    (v1Frame1.port .main).cmd = some ⟨3, 0x1000, 0x2000, 4, 1, 1, 0x472C4400⟩ ∧
    (after (step v1Frame1) fun t => (t.port .main).cmd) =
      some (some ⟨3, 0x1000, 0x2000, 4, 1, 1, 0x472C4400⟩) := by decide

/-- The hypotheses of the clause about `MAIN`, which only a state off every run meets. -/
theorem witness_HeldCommandIsNeverReplaced_main :
    (after (step { running created 0 0 1 0 0 0 0 0 0 with main := ⟨none, none, []⟩ })
      fun t => (t.eng.run, t.main.cmd)) = some (true, none) := by decide

/-- A step from a state whose ports are legal. -/
theorem witness_StepKeepsPortsLegal :
    (after (step { created with ctrl := ⟨none, some ⟨1, 0, 0, 0, 0, 0⟩, []⟩
                                main := holding ⟨2, 0, 0, 0, 0, 0, 0⟩ })
      fun t => (t.live, t.main.resp, t.ctrl.resp)) =
      some (false, some ⟨0, 0, 0, 0, 0, 0⟩, some ⟨1, 0, 0, 0, 0, 0⟩) := by decide

/-- A tie, an overflow at its first magnitude and a finite result just below it. -/
theorem witness_RoundingIsToNearestEven :
    isInf (round32 false (2 ^ 252 * (2 ^ 25 - 1) * 3) 3) = true ∧
    isInf (round32 false (2 ^ 252 * (2 ^ 25 - 1) - 1) 1) = false ∧
    round32 true 1 2 = 0x80000000 ∧ round32 true 3 2 = 0x80000002 := by decide

theorem witness_classes :
    isNaN 0x7FA12345 = true ∧ isNaN 0x3F800000 = false ∧ isInf 0xFF800000 = true ∧
    isFinite 0x00000001 = true ∧ isZero 0x00000001 = false ∧ isZero 0x80000000 = true ∧
    signBit 0xBF800000 = true ∧ isFinite 0x472C4400 = true ∧ signBit 0x472C4400 = false ∧
    isFinite 0x7F800000 = false ∧ isInf 0x7F800000 = true ∧
    signBit 0x7F800000 ≠ signBit 0xFF800000 ∧ isFinite 0x00000000 = true ∧
    (0x00000000 : Word) ≠ 0x80000000 ∧ signBit 0x00000000 = false := by decide

/-- A product of finite data that is a zero, and one that is not. -/
theorem witness_FullMixIsTheProduct :
    isZero (fmul 0x00000001 0x00000001) = true ∧ isZero (fmul 0x40400000 0xBF400000) = false := by
  decide

end Sys2Proof.Tests
end

/-! ## Moves

What a step can be, one case per kind of move with the guard it had, and how an invariant is
shown from that. -/

namespace Sys2Proof.Machine

/-! ### Updates and ports -/

@[simp] theorem place_port_self (s : State) (p : Port) (cw : Record) :
    (s.place p cw).port p = { s.port p with cmd := some cw, resp := none } :=
  port_setPort_self s p _

theorem place_port_of_ne (s : State) {p q : Port} (cw : Record) (h : q ≠ p) :
    (s.place p cw).port q = s.port q := port_setPort_of_ne s _ h

@[simp] theorem popTodo_p0 (s : State) (p : Port) : (s.popTodo p).p0 = s.p0 := setPort_p0 s p _
@[simp] theorem popTodo_p1 (s : State) (p : Port) : (s.popTodo p).p1 = s.p1 := setPort_p1 s p _
@[simp] theorem popTodo_p2 (s : State) (p : Port) : (s.popTodo p).p2 = s.p2 := setPort_p2 s p _
@[simp] theorem popTodo_phaseS (s : State) (p : Port) : (s.popTodo p).phaseS = s.phaseS :=
  setPort_phaseS s p _
@[simp] theorem popTodo_phaseC (s : State) (p : Port) : (s.popTodo p).phaseC = s.phaseC :=
  setPort_phaseC s p _
@[simp] theorem popTodo_eng (s : State) (p : Port) : (s.popTodo p).eng = s.eng := setPort_eng s p _
@[simp] theorem popTodo_rom (s : State) (p : Port) : (s.popTodo p).rom = s.rom := setPort_rom s p _
@[simp] theorem popTodo_main_cmd (s : State) (p : Port) : (s.popTodo p).main.cmd = s.main.cmd :=
  popTodo_cmd s p .main

theorem port_congr {s t : State} (hm : t.main = s.main) (hc : t.ctrl = s.ctrl) (p : Port) :
    t.port p = s.port p := by
  cases p with
  | main => exact hm
  | ctrl => exact hc

/-- A free port holds no command. -/
theorem cmd_eq_none_of_portFree {s : State} {p : Port} (h : s.portFree p = true) :
    (s.port p).cmd = none := by
  cases p <;> simp_all [State.portFree]

/-- `MAIN` is free only while no `PROC` is in flight. -/
theorem run_eq_false_of_portFree {s : State} (h : s.portFree .main = true) :
    s.eng.run = false := by
  simp_all [State.portFree]

/-! ### Decoding and responses -/

/-- A record decodes to an instruction of the port it was placed on (`30_encoding.md` R78). -/
theorem decode_port (p : Port) (cw : Record) : (decode p cw).port = p := by
  simp only [decode, apply_ite Instr.port]
  simp only [Instr.port, ite_self]

theorem port_of_decode {p : Port} {cw : Record} {i : Instr} (h : decode p cw = i) : i.port = p :=
  h ▸ decode_port p cw

/-- The header word is the reserved field over the opcode (`30_encoding.md` R61). -/
theorem cw0_eq_rsv_append_opc (cw : Record) : cw.cw0 = cw.rsv ++ cw.opc := by
  calc
    cw.cw0 = cw.cw0.extractLsb' 0 32 := BitVec.extractLsb'_eq_self.symm
    _ = cw.rsv ++ cw.opc := (BitVec.extractLsb'_append_extractLsb'_eq_extractLsb'
      (start₂ := 8) (start₁ := 0) (len₂ := 24) (len₁ := 8) rfl).symm

/-- What decodes to a `PROC` has its header word and names its operands in order (`30_encoding.md`
R72). -/
theorem decode_eq_proc {p q : Port} {cw : Record} {ib ob len ic oc rate : Word}
    (h : decode p cw = .proc q ib ob len ic oc rate) :
    cw.cw0 = 0x00000003 ∧ cw.cw1 = ib ∧ cw.cw2 = ob ∧ cw.cw3 = len ∧ cw.cw5 = oc := by
  simp only [decode, ite_eq_iff, reduceCtorEq, and_false, false_or, or_false] at h
  obtain ⟨hrsv, -, -, hopc, hproc⟩ := h
  cases hproc
  refine ⟨?_, rfl, rfl, rfl, rfl⟩
  rw [cw0_eq_rsv_append_opc, not_not.mp hrsv, hopc]
  rfl

/-- A response with the number of a result code and no data is legal (`30_encoding.md` R65, R66). -/
theorem legalResponse_code (code : ResultCode) : LegalResponse code.response := by
  cases code <;> simp [LegalResponse, ResultCode.response, ResultCode.word]

/-! ### The moves -/

/-- The moves of the agents: what each can make of the state it moves in. -/
inductive Move : Agent → State → State → Prop where
  | issue {p : Port} {u : State} {cw : Record} {rest : List HostMove}
      (next : (u.port p).todo = .issue cw :: rest) (free : u.portFree p = true)
      (covered : p = .main → callCovered cw = true) :
      Move (.host p) u ((u.popTodo p).place p cw)
  | store {p : Port} {u : State} {addr v : Word} {rest : List HostMove}
      (next : (u.port p).todo = .store addr v :: rest) (notLent : u.lent addr = false) :
      Move (.host p) u ((u.popTodo p).setMem ((u.popTodo p).mem.writeWord addr v))
  | reset {p : Port} {u : State} {rest : List HostMove}
      (next : (u.port p).todo = .reset :: rest) : Move (.host p) u (u.popTodo p).hardReset
  | answer {p : Port} {u : State} {cw : Record} {r : Response} (held : (u.port p).cmd = some cw)
      (idle : p = .main → u.eng.run = false)
      (ran : exec (decode p cw) u = .next (u.respond p r)) (legal : LegalResponse r) :
      Move (servingAgent p) u (u.respond p r)
  | create {u : State} {cw : Record} (held : u.main.cmd = some cw) (idle : u.eng.run = false)
      (decoded : decode .main cw = .create .main) :
      Move .main u (u.created.respond .main ResultCode.ok.response)
  | release {u : State} {cw : Record} (held : u.main.cmd = some cw) (idle : u.eng.run = false)
      (decoded : decode .main cw = .release .main) (live : u.live = true) :
      Move .main u (u.destroyed.respond .main ResultCode.ok.response)
  | start {u : State} {cw : Record} {ib ob len ic oc rate : Word} (held : u.main.cmd = some cw)
      (idle : u.eng.run = false) (decoded : decode .main cw = .proc .main ib ob len ic oc rate)
      (live : u.live = true) : Move .main u (u.setEng (Eng.start ib ob len oc rate u.p0 u.p1))
  | set {u : State} {cw : Record} {index v : Word} (held : u.ctrl.cmd = some cw)
      (decoded : decode .ctrl cw = .set .ctrl index v) (live : u.live = true)
      (valid : idxValid index = true) :
      Move .control u ((u.writeP (cellAt index) v).respond .ctrl ResultCode.ok.response)
  | done {u : State} (run : u.eng.run = true) (last : u.eng.n = u.eng.len) :
      Move .engine u (u.stopEng.respond .main ResultCode.ok.response)
  | advance {u : State} (run : u.eng.run = true) (more : u.eng.n ≠ u.eng.len)
      (frameEnd : u.eng.i = u.eng.oc) :
      Move .engine u
        ((u.setPhase (advance u.phaseS u.phaseC u.eng.w)).setEng u.eng.nextFrame)
  | sample {u : State} {x : Word} (run : u.eng.run = true) (more : u.eng.n ≠ u.eng.len)
      (inFrame : u.eng.i ≠ u.eng.oc) (mayRead : u.mayRead u.eng.inAddr = true)
      (read : u.mem.readWord u.eng.inAddr = some x) (mayWrite : u.mayWrite u.eng.outAddr = true) :
      Move .engine u
        ((u.setMem (u.mem.writeWord u.eng.outAddr (u.outSample x))).setEng u.eng.nextChannel)

/-- The host's step is one of its three moves, with its guard (`70_reset_and_hazards.md` R212). -/
theorem hostStep_move {p : Port} {u t : State} (hen : u.enabled (.host p) = true)
    (h : hostStep p u = .next t) : Move (.host p) u t := by
  obtain ⟨hnil, -⟩ | ⟨m, rest, hm, rfl⟩ := hostStep_cases h
  · simp [State.enabled, hnil] at hen
  · have hmay : u.hostMay p m = true := by simpa [State.enabled, hm] using hen
    cases m with
    | issue cw =>
      simp only [State.hostMay, Bool.and_eq_true, Bool.or_eq_true, bne_iff_ne] at hmay
      exact .issue hm hmay.1 fun hp => hmay.2.resolve_left fun hne => hne hp
    | store addr v => exact .store hm (by simpa [State.hostMay] using hmay)
    | reset => exact .reset hm

/-- Serving a held command is a turning away, a plain answer, or one of the four operations that
change the core. -/
theorem exec_move {p : Port} {u t : State} {cw : Record} (held : (u.port p).cmd = some cw)
    (idle : p = .main → u.eng.run = false) (h : exec (decode p cw) u = .next t) :
    Move (servingAgent p) u t := by
  rcases exec_cases h with ⟨code, -, rfl⟩ | ⟨hi, rfl⟩ | ⟨hi, hl, rfl⟩ |
    ⟨ib, ob, len, ic, oc, rate, hi, hl, rfl⟩ | ⟨index, v, hi, hl, hx, rfl⟩ |
    ⟨index, hi, -, -, rfl⟩ | ⟨index, hi, -, -, rfl⟩ | ⟨name, buffer, num, hi, -, rfl⟩
  · rw [decode_port] at h ⊢
    exact .answer held idle h (legalResponse_code code)
  · cases port_of_decode hi
    exact .create held (idle rfl) hi
  · cases port_of_decode hi
    exact .release held (idle rfl) hi hl
  · cases port_of_decode hi
    exact .start held (idle rfl) hi hl
  · cases port_of_decode hi
    exact .set held hi hl hx
  · cases port_of_decode hi
    exact .answer held idle h (.inl rfl)
  · cases port_of_decode hi
    exact .answer held idle h (.inl rfl)
  · cases port_of_decode hi
    exact .answer held idle h (.inl rfl)

/-- The engine's step is one of its three arms (`43_oscillator_mixer.md` R145). -/
theorem engineStep_move {u t : State} (run : u.eng.run = true) (h : engineStep u = .next t) :
    Move .engine u t := by
  obtain ⟨hn, rfl⟩ | ⟨hn, hi, rfl⟩ | ⟨hn, hi, x, hr, hx, hw, rfl⟩ := engineStep_cases h
  · exact .done run hn
  · exact .advance run hn hi
  · exact .sample run hn hi hr hx hw

/-- The step of an agent that has one enabled is one of its moves. -/
theorem agentStep_move {a : Agent} {u t : State} (hen : u.enabled a = true)
    (h : agentStep a u = .next t) : Move a u t := by
  cases a with
  | host p => exact hostStep_move hen h
  | main =>
    simp only [State.enabled, Bool.and_eq_true, Bool.not_eq_true'] at hen
    obtain ⟨hnone, -⟩ | ⟨cw, held, hexec⟩ := serveStep_cases h
    · rw [port_main] at hnone
      simp [hnone] at hen
    · exact exec_move held (fun _ => hen.2) hexec
  | engine => exact engineStep_move hen h
  | control =>
    obtain ⟨hnone, -⟩ | ⟨cw, held, hexec⟩ := serveStep_cases h
    · rw [port_ctrl] at hnone
      simp [State.enabled, hnone] at hen
    · exact exec_move held (fun hp => by cases hp) hexec

/-! ### The turn

Being chosen to move changes the interleaving's own fields and no other. -/

theorem SameButTurn.p0 {s u : State} (h : SameButTurn s u) : u.p0 = s.p0 := by rw [h]
theorem SameButTurn.p1 {s u : State} (h : SameButTurn s u) : u.p1 = s.p1 := by rw [h]
theorem SameButTurn.p2 {s u : State} (h : SameButTurn s u) : u.p2 = s.p2 := by rw [h]
theorem SameButTurn.phaseS {s u : State} (h : SameButTurn s u) : u.phaseS = s.phaseS := by rw [h]
theorem SameButTurn.phaseC {s u : State} (h : SameButTurn s u) : u.phaseC = s.phaseC := by rw [h]
theorem SameButTurn.eng {s u : State} (h : SameButTurn s u) : u.eng = s.eng := by rw [h]
theorem SameButTurn.rom {s u : State} (h : SameButTurn s u) : u.rom = s.rom := by rw [h]
theorem SameButTurn.main {s u : State} (h : SameButTurn s u) : u.main = s.main := by rw [h]
theorem SameButTurn.ctrl {s u : State} (h : SameButTurn s u) : u.ctrl = s.ctrl := by rw [h]

/-- No agent's guard reads the interleaving's own fields. -/
theorem enabled_of_sameButTurn {s u : State} (h : SameButTurn s u) (a : Agent) :
    u.enabled a = s.enabled a := by
  rw [h]
  cases a with
  | host p => cases p <;> rfl
  | main => rfl
  | engine => rfl
  | control => rfl

/-- A step holds the idle core as it is, or is one move of the agent chosen. -/
theorem step_moves {s t : State} (h : step s = .next t) :
    (s.choose = none ∧ t = s) ∨
    ∃ a u, s.choose = some (a, u) ∧ SameButTurn s u ∧ Move a u t := by
  refine (step_cases h).imp_right ?_
  rintro ⟨a, u, hc, hen, hu, hstep⟩
  exact ⟨a, u, hc, hu, agentStep_move ((enabled_of_sameButTurn hu a).trans hen) hstep⟩

/-- What no turn and no move breaks, no step breaks. -/
theorem step_keeps {I : State → Prop} (turn : ∀ s u, SameButTurn s u → I s → I u)
    (move : ∀ a u t, I u → Move a u t → I t) {s t : State} (hs : I s) (h : step s = .next t) :
    I t := by
  obtain ⟨-, rfl⟩ | ⟨a, u, -, hu, hm⟩ := step_moves h
  · exact hs
  · exact move a u t (turn s u hu hs) hm

end Sys2Proof.Machine

/-! ## Invariants of the state

The state at reset, and what every step keeps of the ports, the engine and `DESCROM`
(`10_state.md`). -/

namespace Sys2Proof.Machine

/-! ### Reset -/

theorem romFixed_reset : RomFixed State.reset := ⟨rfl, rfl⟩

/-- Settles O7: every clause is a value of the reset state, which the model computes. -/
theorem resetIsIdle : Obligations.ResetIsIdle :=
  ⟨rfl, rfl, rfl, rfl, rfl, rfl, romFixed_reset, rfl, rfl⟩

/-! ### Responses -/

theorem PortsLegal.congr {s t : State} (hs : PortsLegal s) (hm : t.main = s.main)
    (hc : t.ctrl = s.ctrl) : PortsLegal t := by
  intro p
  rw [port_congr hm hc]
  exact hs p

theorem PortsLegal.popTodo {s : State} (hs : PortsLegal s) (p : Port) :
    PortsLegal (s.popTodo p) := by
  intro q
  rw [popTodo_cmd, popTodo_resp]
  exact hs q

theorem PortsLegal.place {s : State} (hs : PortsLegal s) (p : Port) (cw : Record) :
    PortsLegal (s.place p cw) := by
  intro q
  by_cases hq : q = p
  · subst hq
    simp
  · rw [place_port_of_ne s cw hq]
    exact hs q

theorem PortsLegal.respond {s : State} (hs : PortsLegal s) (p : Port) {r : Response}
    (hr : LegalResponse r) : PortsLegal (s.respond p r) := by
  intro q
  by_cases hq : q = p
  · subst hq
    simpa using hr
  · rw [respond_port_of_ne s r hq]
    exact hs q

theorem portsLegal_hardReset (s : State) : PortsLegal s.hardReset := by
  intro p
  cases p <;> simp

/-- A move places a command where it clears the response, answers legally, or leaves the ports. -/
theorem Move.keeps_portsLegal {a : Agent} {u t : State} (hu : PortsLegal u) (h : Move a u t) :
    PortsLegal t := by
  have hok : LegalResponse ResultCode.ok.response := legalResponse_code .ok
  cases h with
  | issue _ _ _ => exact (hu.popTodo _).place _ _
  | store _ _ => exact (hu.popTodo _).congr rfl rfl
  | reset _ => exact portsLegal_hardReset _
  | answer _ _ _ legal => exact hu.respond _ legal
  | create _ _ _ => exact (hu.congr (created_main u) (created_ctrl u)).respond _ hok
  | release _ _ _ _ => exact (hu.congr (destroyed_main u) (destroyed_ctrl u)).respond _ hok
  | start _ _ _ _ => exact hu.congr rfl rfl
  | set _ _ _ _ => exact (hu.congr (writeP_main u _ _) (writeP_ctrl u _ _)).respond _ hok
  | done _ _ => exact (hu.congr (stopEng_main u) (stopEng_ctrl u)).respond _ hok
  | advance _ _ _ => exact hu.congr rfl rfl
  | sample _ _ _ _ _ _ => exact hu.congr rfl rfl

/-- Settles O19, by the cases of a move. -/
theorem stepKeepsPortsLegal : Obligations.StepKeepsPortsLegal := fun _ _ hs h =>
  step_keeps (fun _ _ hu hs => hs.congr hu.main hu.ctrl)
    (fun _ _ _ hu hm => hm.keeps_portsLegal hu) hs h

/-! ### The running `PROC` -/

theorem engineCoherent_of_idle {s : State} (h : s.eng.run = false) : EngineCoherent s :=
  fun hrun => absurd hrun (by simp [h])

theorem EngineCoherent.congr {s t : State} (hs : EngineCoherent s) (he : t.eng = s.eng)
    (hc : t.main.cmd = s.main.cmd) : EngineCoherent t := by
  unfold EngineCoherent
  rw [he, hc]
  exact hs

/-- A counter below its bound does not wrap when it is stepped (`40_numerics.md` R104). -/
theorem toNat_add_one_le {x bound : Word} (hle : x.toNat ≤ bound.toNat) (hne : x ≠ bound) :
    (x + 1).toNat ≤ bound.toNat := by
  bv_omega

theorem engineCoherent_start {u : State} {cw : Record} {ib ob len ic oc rate : Word}
    (held : u.main.cmd = some cw) (decoded : decode .main cw = .proc .main ib ob len ic oc rate) :
    EngineCoherent (u.setEng (Eng.start ib ob len oc rate u.p0 u.p1)) := by
  obtain ⟨h0, h1, h2, h3, h5⟩ := decode_eq_proc decoded
  intro _
  exact ⟨cw, held, h0, h1.symm, h2.symm, h3.symm, h5.symm, Nat.zero_le _, Nat.zero_le _,
    fun _ => rfl⟩

theorem EngineCoherent.nextFrame {u : State} (hu : EngineCoherent u) (more : u.eng.n ≠ u.eng.len)
    (sc : Word × Word) : EngineCoherent ((u.setPhase sc).setEng u.eng.nextFrame) := by
  intro run
  obtain ⟨cw, held, h0, hib, hob, hlen, hoc, hn, -, -⟩ := hu run
  exact ⟨cw, held, h0, hib, hob, hlen, hoc, toNat_add_one_le hn more, Nat.zero_le _, fun _ => rfl⟩

theorem EngineCoherent.nextChannel {u : State} (hu : EngineCoherent u)
    (more : u.eng.n ≠ u.eng.len) (inFrame : u.eng.i ≠ u.eng.oc) (m : Memory) :
    EngineCoherent ((u.setMem m).setEng u.eng.nextChannel) := by
  intro run
  obtain ⟨cw, held, h0, hib, hob, hlen, hoc, hn, hi, -⟩ := hu run
  exact ⟨cw, held, h0, hib, hob, hlen, hoc, hn, toNat_add_one_le hi inFrame,
    fun hlast => absurd hlast more⟩

/-- Placing a command on a free port leaves a running `PROC` where it is: `MAIN` is free only while
none runs. -/
theorem EngineCoherent.place {s : State} (hs : EngineCoherent s) {p : Port} (cw : Record)
    (idle : p = .main → s.eng.run = false) : EngineCoherent (s.place p cw) := by
  cases p with
  | main => exact engineCoherent_of_idle (by simpa using idle rfl)
  | ctrl => exact hs.congr rfl rfl

/-- An answer on `MAIN` is given while no `PROC` runs, and one on `CTRL` leaves `MAIN`. -/
theorem EngineCoherent.respond {s : State} (hs : EngineCoherent s) {p : Port} (r : Response)
    (idle : p = .main → s.eng.run = false) : EngineCoherent (s.respond p r) := by
  cases p with
  | main => exact engineCoherent_of_idle (by simpa using idle rfl)
  | ctrl => exact hs.congr rfl rfl

theorem Move.keeps_engineCoherent {a : Agent} {u t : State} (hu : EngineCoherent u)
    (h : Move a u t) : EngineCoherent t := by
  cases h with
  | issue _ free _ =>
    refine (hu.congr (popTodo_eng u _) (popTodo_main_cmd u _)).place _ ?_
    rintro rfl
    simpa using run_eq_false_of_portFree free
  | store _ _ => exact hu.congr (popTodo_eng u _) (popTodo_main_cmd u _)
  | reset _ => exact engineCoherent_of_idle rfl
  | answer _ idle _ _ => exact hu.respond _ idle
  | create _ idle _ => exact engineCoherent_of_idle idle
  | release _ idle _ _ => exact engineCoherent_of_idle idle
  | start held _ decoded _ => exact engineCoherent_start held decoded
  | set _ _ _ _ => exact hu.congr (by simp) (by simp)
  | done _ _ => exact engineCoherent_of_idle rfl
  | advance _ more _ => exact hu.nextFrame more _
  | sample _ more inFrame _ _ _ => exact hu.nextChannel more inFrame _

/-- Settles O41, by the cases of a move; the counters step only below their bounds. -/
theorem stepKeepsEngineCoherent : Obligations.StepKeepsEngineCoherent := fun _ _ hs h =>
  step_keeps (fun _ _ hu hs => hs.congr hu.eng (congrArg PortState.cmd hu.main))
    (fun _ _ _ hu hm => hm.keeps_engineCoherent hu) hs h

/-- Settles O42: at reset no port holds anything, no `PROC` runs and the memory lists no cell. -/
theorem resetMeetsTheInvariants : Obligations.ResetMeetsTheInvariants := by
  refine ⟨rfl, romFixed_reset, engineCoherent_of_idle rfl, ?_, ?_⟩
  · intro p
    cases p <;> simp [State.reset, PortState.reset]
  · intro cw h
    cases h

/-! ### `DESCROM` -/

theorem Move.rom {a : Agent} {u t : State} (h : Move a u t) : t.rom = u.rom := by
  cases h <;> simp

/-- Settles O40: no move of any agent writes `DESCROM`. -/
theorem stepKeepsTheRom : Obligations.StepKeepsTheRom := fun s _ h =>
  step_keeps (I := fun u => u.rom = s.rom) (fun _ _ hu hs => hu.rom.trans hs)
    (fun _ _ _ hu hm => hm.rom.trans hu) rfl h

/-! ### The held command -/

/-- An answer frees its port and leaves the other's command. -/
theorem respond_cmd {s u : State} (hm : s.main = u.main) (hc : s.ctrl = u.ctrl) (p q : Port)
    (r : Response) :
    ((s.respond p r).port q).cmd = none ∨ ((s.respond p r).port q).cmd = (u.port q).cmd := by
  by_cases hq : q = p
  · subst hq
    exact .inl (by simp)
  · exact .inr (by rw [respond_port_of_ne s r hq, port_congr hm hc])

/-- A port that is not free takes no command: it keeps the one it holds, or is freed. -/
theorem Move.cmd {a : Agent} {u t : State} (h : Move a u t) (q : Port) :
    u.portFree q = true ∨ (t.port q).cmd = none ∨ (t.port q).cmd = (u.port q).cmd := by
  cases h with
  | @issue p _ cw _ _ free _ =>
    by_cases hq : q = p
    · subst hq
      exact .inl free
    · exact .inr (.inr (by rw [place_port_of_ne _ cw hq, popTodo_cmd]))
  | store _ _ =>
    exact .inr (.inr (by rw [port_congr (setMem_main _ _) (setMem_ctrl _ _), popTodo_cmd]))
  | reset _ => exact .inr (.inl (by cases q <;> rfl))
  | answer _ _ _ _ => exact .inr (respond_cmd rfl rfl _ q _)
  | create _ _ _ => exact .inr (respond_cmd (created_main u) (created_ctrl u) _ q _)
  | release _ _ _ _ => exact .inr (respond_cmd (destroyed_main u) (destroyed_ctrl u) _ q _)
  | start _ _ _ _ => exact .inr (.inr (by rw [port_congr (setEng_main _ _) (setEng_ctrl _ _)]))
  | set _ _ _ _ => exact .inr (respond_cmd (writeP_main u _ _) (writeP_ctrl u _ _) _ q _)
  | done _ _ => exact .inr (respond_cmd (stopEng_main u) (stopEng_ctrl u) _ q _)
  | advance _ _ _ => exact .inr (.inr (by cases q <;> rfl))
  | sample _ _ _ _ _ _ => exact .inr (.inr (by cases q <;> rfl))

/-- The same over a whole step. -/
theorem step_cmd {s t : State} (h : step s = .next t) (q : Port) :
    s.portFree q = true ∨ (t.port q).cmd = none ∨ (t.port q).cmd = (s.port q).cmd := by
  obtain ⟨-, rfl⟩ | ⟨a, u, -, hu, hm⟩ := step_moves h
  · exact .inr (.inr rfl)
  · have hfree : u.portFree q = s.portFree q := by
      rw [hu]
      cases q <;> rfl
    rw [← hfree, ← port_congr hu.main hu.ctrl q]
    exact hm.cmd q

/-- Settles O45: only a free port takes a command, and `MAIN` is free only while no `PROC` runs. -/
theorem heldCommandIsNeverReplaced : Obligations.HeldCommandIsNeverReplaced := by
  constructor
  · intro s t p x y h hx hy
    obtain hfree | hnone | hsame := step_cmd h p
    · cases hx.symm.trans (cmd_eq_none_of_portFree hfree)
    · cases hy.symm.trans hnone
    · exact Option.some.inj (hy.symm.trans (hsame.trans hx))
  · intro s t h run _ hnone
    obtain hfree | hfreed | hsame := step_cmd h .main
    · cases run.symm.trans (run_eq_false_of_portFree hfree)
    · exact hfreed
    · exact hsame.trans hnone

end Sys2Proof.Machine

/-! ## The phase pair and the parameter cells

What changes the phase pair and the parameter cells, and that the cell past the end is
isolated (`10_state.md` R21, R24, R26). -/

namespace Sys2Proof.Machine

/-! ### The phase pair -/

/-- The moves that change the phase pair. -/
theorem Move.phase {a : Agent} {u t : State} (h : Move a u t) :
    (t.phaseS = u.phaseS ∧ t.phaseC = u.phaseC) ∨
    (a = .engine ∧ u.eng.n ≠ u.eng.len ∧ u.eng.i = u.eng.oc ∧
      (t.phaseS, t.phaseC) = Machine.advance u.phaseS u.phaseC u.eng.w) ∨
    (a = .main ∧ ∃ cw, u.main.cmd = some cw ∧
      ((decode .main cw = .create .main ∧ (t.phaseS, t.phaseC) = (0x00000000, 0x3F800000)) ∨
        decode .main cw = .release .main)) ∨
    ∃ p, a = .host p ∧ (u.port p).todo.head? = some .reset := by
  cases h with
  | reset next => exact .inr (.inr (.inr ⟨_, rfl, by rw [next]; rfl⟩))
  | create held _ decoded => exact .inr (.inr (.inl ⟨rfl, _, held, .inl ⟨decoded, rfl⟩⟩))
  | release held _ decoded _ => exact .inr (.inr (.inl ⟨rfl, _, held, .inr decoded⟩))
  | advance _ more frameEnd => exact .inr (.inl ⟨rfl, more, frameEnd, rfl⟩)
  | issue _ _ _ => exact .inl (by simp)
  | store _ _ => exact .inl (by simp)
  | answer _ _ _ _ => exact .inl (by simp)
  | start _ _ _ _ => exact .inl ⟨rfl, rfl⟩
  | set _ _ _ _ => exact .inl (by simp)
  | done _ _ => exact .inl ⟨rfl, rfl⟩
  | sample _ _ _ _ _ _ => exact .inl ⟨rfl, rfl⟩

/-- Settles O43, by the cases of a move. -/
theorem phaseChangesOnlyByAdvanceOrLifecycle : Obligations.PhaseChangesOnlyByAdvanceOrLifecycle := by
  intro s t h
  obtain ⟨-, rfl⟩ | ⟨a, u, hc, hu, hm⟩ := step_moves h
  · exact .inl ⟨rfl, rfl⟩
  · rw [← hu.phaseS, ← hu.phaseC]
    exact hm.phase.imp_right fun hmove => ⟨a, u, hc, hmove⟩

/-! ### The parameter cells -/

theorem cellAt_eq_frequency {index : Word} : cellAt index = .frequency ↔ index = 0 := by
  unfold cellAt
  split_ifs <;> simp_all

theorem cellAt_eq_mix {index : Word} : cellAt index = .mix ↔ index = 1 := by
  unfold cellAt
  split_ifs <;> simp_all

/-- Of the indices the validator accepts only 2 is the cell past the end (`42_parameter_store.md`
R121). -/
theorem cellAt_eq_pastEnd {index : Word} (valid : idxValid index = true) :
    cellAt index = .pastEnd ↔ index = 2 := by
  simp only [idxValid, Bool.and_eq_true, Bool.not_eq_true', decide_eq_false_iff_not, not_lt] at valid
  obtain ⟨hlo, hhi⟩ := valid
  have hint : index.toInt = 0 ∨ index.toInt = 1 ∨ index.toInt = 2 := by omega
  have hcase : index = 0 ∨ index = 1 ∨ index = 2 :=
    hint.imp BitVec.eq_of_toInt_eq (.imp BitVec.eq_of_toInt_eq BitVec.eq_of_toInt_eq)
  obtain rfl | rfl | rfl := hcase <;> decide

/-- A write of the cell `index` leaves the other cells. -/
theorem writeP_cellAt_cells (s : State) {index : Word} (v : Word) (valid : idxValid index = true) :
    (index ≠ 0 → (s.writeP (cellAt index) v).p0 = s.p0) ∧
    (index ≠ 1 → (s.writeP (cellAt index) v).p1 = s.p1) ∧
    (index ≠ 2 → (s.writeP (cellAt index) v).p2 = s.p2) :=
  ⟨fun h => readP_writeP_of_ne s v (j := .frequency) fun hc => h (cellAt_eq_frequency.mp hc.symm),
    fun h => readP_writeP_of_ne s v (j := .mix) fun hc => h (cellAt_eq_mix.mp hc.symm),
    fun h => readP_writeP_of_ne s v (j := .pastEnd)
      fun hc => h ((cellAt_eq_pastEnd valid).mp hc.symm)⟩

/-- The commands that change a cell. -/
theorem exec_cells {i : Instr} {s t : State} (h : exec i s = .next t) (hc : i ≠ .create .main)
    (hr : i ≠ .release .main) :
    ((∀ v, i ≠ .set .ctrl 0 v) → t.p0 = s.p0) ∧ ((∀ v, i ≠ .set .ctrl 1 v) → t.p1 = s.p1) ∧
    ((∀ v, i ≠ .set .ctrl 2 v) → t.p2 = s.p2) := by
  rcases exec_cases h with ⟨_, _, rfl⟩ | ⟨hi, _⟩ | ⟨hi, _⟩ | ⟨_, _, _, _, _, _, _, _, rfl⟩ |
    ⟨index, v, rfl, _, valid, rfl⟩ | ⟨_, _, _, _, rfl⟩ | ⟨_, _, _, _, rfl⟩ |
    ⟨_, _, _, _, _, rfl⟩
  · simp
  · exact absurd hi hc
  · exact absurd hi hr
  · simp
  · obtain ⟨h0, h1, h2⟩ := writeP_cellAt_cells s v valid
    exact ⟨fun hn => h0 fun he => hn v (by rw [he]), fun hn => h1 fun he => hn v (by rw [he]),
      fun hn => h2 fun he => hn v (by rw [he])⟩
  · simp
  · simp
  · simp

theorem engineStep_cells {s t : State} (h : engineStep s = .next t) :
    t.p0 = s.p0 ∧ t.p1 = s.p1 ∧ t.p2 = s.p2 := by
  obtain ⟨_, rfl⟩ | ⟨_, _, rfl⟩ | ⟨_, _, _, _, _, _, rfl⟩ := engineStep_cases h
  · simp
  · simp
  · simp

/-- The moves that change a cell. -/
theorem Move.cells {a : Agent} {u t : State} (h : Move a u t) :
    (t.p0 = u.p0 ∧ t.p1 = u.p1 ∧ t.p2 = u.p2) ∨
    (a = .main ∧ ∃ cw, u.main.cmd = some cw ∧
      (decode .main cw = .create .main ∨ decode .main cw = .release .main)) ∨
    (a = .control ∧ ∃ cw index v, u.ctrl.cmd = some cw ∧ decode .ctrl cw = .set .ctrl index v ∧
      (index ≠ 0 → t.p0 = u.p0) ∧ (index ≠ 1 → t.p1 = u.p1) ∧ (index ≠ 2 → t.p2 = u.p2)) ∨
    ∃ p, a = .host p ∧ (u.port p).todo.head? = some .reset := by
  cases h with
  | create held _ decoded => exact .inr (.inl ⟨rfl, _, held, .inl decoded⟩)
  | release held _ decoded _ => exact .inr (.inl ⟨rfl, _, held, .inr decoded⟩)
  | set held decoded _ valid =>
    exact .inr (.inr (.inl ⟨rfl, _, _, _, held, decoded, writeP_cellAt_cells u _ valid⟩))
  | reset next => exact .inr (.inr (.inr ⟨_, rfl, by rw [next]; rfl⟩))
  | issue _ _ _ => exact .inl (by simp)
  | store _ _ => exact .inl (by simp)
  | answer _ _ _ _ => exact .inl (by simp)
  | start _ _ _ _ => exact .inl ⟨rfl, rfl, rfl⟩
  | done _ _ => exact .inl ⟨rfl, rfl, rfl⟩
  | advance _ _ _ => exact .inl ⟨rfl, rfl, rfl⟩
  | sample _ _ _ _ _ _ => exact .inl ⟨rfl, rfl, rfl⟩

/-- Settles O21: the commands, the engine's three arms and the moves of a whole step. -/
theorem cellsChangeOnlyBySetLifecycleOrReset : Obligations.CellsChangeOnlyBySetLifecycleOrReset := by
  refine ⟨fun _ _ _ h hc hr => exec_cells h hc hr, fun _ _ h => engineStep_cells h, ?_⟩
  intro s t h
  obtain ⟨-, rfl⟩ | ⟨a, u, hc, hu, hm⟩ := step_moves h
  · exact .inl ⟨rfl, rfl, rfl⟩
  · rw [← hu.p0, ← hu.p1, ← hu.p2]
    exact hm.cells.imp_right fun hmove => ⟨a, u, hc, hmove⟩

/-! ### The cell past the end

`s.writeP .pastEnd v` is the state `s` with another word in the cell past the end. -/

theorem respond_writeP (s : State) (k : ParamCell) (v : Word) (p : Port) (r : Response) :
    (s.writeP k v).respond p r = (s.respond p r).writeP k v := by
  cases k <;> cases p <;> rfl

theorem writeP_writeP_pastEnd (s : State) (k : ParamCell) (x v : Word) :
    ∃ w, (s.writeP .pastEnd v).writeP k x = (s.writeP k x).writeP .pastEnd w := by
  cases k with
  | frequency => exact ⟨v, rfl⟩
  | mix => exact ⟨v, rfl⟩
  | pastEnd => exact ⟨x, rfl⟩

/-- The shared tests do not read the cell past the end, so an operation behind them is isolated from it
when its own effect is. -/
theorem gate_writeP_pastEnd {s t : State} {p own : Port} {needsLive indexOk : Bool}
    {act : State → Outcome} {out : State} {v : Word}
    (h : s.gate p own needsLive indexOk act = .next t)
    (hact : p = own → indexOk = true → act s = .next out ∧
      ∃ w, act (s.writeP .pastEnd v) = .next (out.writeP .pastEnd w)) :
    ∃ w, (s.writeP .pastEnd v).gate p own needsLive indexOk act = .next (t.writeP .pastEnd w) := by
  obtain ⟨rfl, hl, hx, hg⟩ | ⟨hp, hg⟩ | ⟨rfl, rfl, hl, hg⟩ | ⟨rfl, hl, rfl, hg⟩ :=
    gate_cases s p own needsLive indexOk act
  · obtain ⟨hout, hout'⟩ := hact rfl hx
    cases hout.symm.trans (hg.symm.trans h)
    rwa [gate_pass (s.writeP .pastEnd v) p act hl hx]
  · cases hg.symm.trans h
    exact ⟨v, by rw [gate_wrong_port _ _ _ _ hp, respond_writeP]⟩
  · cases hg.symm.trans h
    exact ⟨v, by rw [gate_not_live (s.writeP .pastEnd v) p _ _ hl, respond_writeP]⟩
  · cases hg.symm.trans h
    exact ⟨v, by rw [gate_bad_index (s.writeP .pastEnd v) p _ hl, respond_writeP]⟩

/-- Every command but `GET` of index 2 does the same to everything but the cell past the end, whatever
word is in it. -/
theorem exec_writeP_pastEnd {i : Instr} {s t : State} (v : Word) (hget : i ≠ .get .ctrl 2)
    (h : exec i s = .next t) :
    ∃ w, exec i (s.writeP .pastEnd v) = .next (t.writeP .pastEnd w) := by
  have bad : ∀ p, s.badCommand p = .next t →
      ∃ w, (s.writeP .pastEnd v).badCommand p = .next (t.writeP .pastEnd w) := by
    rintro p ⟨⟩
    exact ⟨v, by rw [State.badCommand, respond_writeP]⟩
  cases i with
  | create p =>
    unfold exec execCreate at h ⊢
    refine gate_writeP_pastEnd h (fun hp _ => ⟨rfl, Config.freeWord s.draw, ?_⟩)
    subst hp
    rfl
  | release p =>
    unfold exec execRelease at h ⊢
    refine gate_writeP_pastEnd h (fun hp _ => ⟨rfl, Config.freeWord (s.draw + 2), ?_⟩)
    subst hp
    rfl
  | proc p ib ob len ic oc rate =>
    unfold exec execProc at h ⊢
    exact gate_writeP_pastEnd h (fun _ _ => ⟨rfl, v, rfl⟩)
  | set p index x =>
    unfold exec execSet at h ⊢
    refine gate_writeP_pastEnd h (fun _ _ => ⟨rfl, ?_⟩)
    obtain ⟨w, hw⟩ := writeP_writeP_pastEnd s (cellAt index) x v
    exact ⟨w, by rw [hw, respond_writeP]⟩
  | get p index =>
    unfold exec execGet at h ⊢
    refine gate_writeP_pastEnd h (fun hp hx => ⟨rfl, v, ?_⟩)
    have hcell : cellAt index ≠ .pastEnd := fun hc =>
      hget (by rw [hp, (cellAt_eq_pastEnd hx).mp hc])
    rw [readP_writeP_of_ne s v hcell, respond_writeP]
  | desc p index =>
    unfold exec execDesc at h ⊢
    refine gate_writeP_pastEnd h (fun _ _ => ⟨rfl, v, ?_⟩)
    rw [writeP_rom, respond_writeP]
  | getbuf p name buffer num =>
    unfold exec execGetbuf at h ⊢
    exact gate_writeP_pastEnd h (fun _ _ => ⟨rfl, v, by rw [respond_writeP]⟩)
  | reserved00 p => exact bad p h
  | reserved04To07 p low => exact bad p h
  | reserved08To0F p low => exact bad p h
  | reserved14To17 p low => exact bad p h
  | reserved18To1F p low => exact bad p h
  | reserved20To3F p low => exact bad p h
  | reserved40To7F p low => exact bad p h
  | reserved80ToFF p low => exact bad p h
  | reservedRsvNonzero p rsv opc => exact bad p h

/-! The engine step of each arm, the converse of `engineStep_cases`. -/

theorem engineStep_done {s : State} (last : s.eng.n = s.eng.len) :
    engineStep s = .next (s.stopEng.respond .main ResultCode.ok.response) := if_pos last

theorem engineStep_advance {s : State} (more : s.eng.n ≠ s.eng.len) (frameEnd : s.eng.i = s.eng.oc) :
    engineStep s =
      .next ((s.setPhase (advance s.phaseS s.phaseC s.eng.w)).setEng s.eng.nextFrame) := by
  rw [engineStep, if_neg more, if_pos frameEnd]
  rfl

theorem engineStep_sample {s : State} {x : Word} (more : s.eng.n ≠ s.eng.len)
    (inFrame : s.eng.i ≠ s.eng.oc) (mayRead : s.mayRead s.eng.inAddr = true)
    (read : s.mem.readWord s.eng.inAddr = some x) (mayWrite : s.mayWrite s.eng.outAddr = true) :
    engineStep s = .next
      ((s.setMem (s.mem.writeWord s.eng.outAddr (s.outSample x))).setEng s.eng.nextChannel) := by
  simp only [engineStep, sampleStep, if_neg more, if_neg inFrame, if_pos mayRead, read,
    if_pos mayWrite]

/-- The engine neither reads nor writes the cell past the end. -/
theorem engineStep_writeP_pastEnd {s t : State} (v : Word) (h : engineStep s = .next t) :
    engineStep (s.writeP .pastEnd v) = .next (t.writeP .pastEnd v) := by
  obtain ⟨hn, rfl⟩ | ⟨hn, hi, rfl⟩ | ⟨hn, hi, x, hr, hx, hw, rfl⟩ := engineStep_cases h
  · exact engineStep_done (s := s.writeP .pastEnd v) hn
  · exact engineStep_advance (s := s.writeP .pastEnd v) hn hi
  · exact engineStep_sample (s := s.writeP .pastEnd v) hn hi hr hx hw

/-- Settles O22, by the instructions behind the shared tests and the engine's three arms. -/
theorem cellPastTheEndIsIsolated : Obligations.CellPastTheEndIsIsolated :=
  ⟨fun _ _ _ v hget h => exec_writeP_pastEnd v hget h,
    fun _ _ v h => engineStep_writeP_pastEnd v h⟩

end Sys2Proof.Machine

/-! ## Words of the sample memory

What a word read gives after a word write (`20_memory.md` R43, R44), and where the offsets of frames and
channels fall (R49, R50). -/

namespace Sys2Proof.Machine

/-! ### Words -/

/-- A word is its four bytes, the highest first. -/
theorem append_bytes (v : Word) :
    v.extractLsb' 24 8 ++ v.extractLsb' 16 8 ++ v.extractLsb' 8 8 ++ v.extractLsb' 0 8 = v := by
  have join : ∀ start len, v.extractLsb' (start + 8) len ++ v.extractLsb' start 8 =
      v.extractLsb' start (len + 8) := fun _ _ =>
    BitVec.extractLsb'_append_extractLsb'_eq_extractLsb' rfl
  rw [join 16 8, join 8 16, join 0 24]
  exact BitVec.extractLsb'_eq_self

@[simp] theorem readWord_writeWord_self (m : Memory) (addr v : Word) :
    (m.writeWord addr v).readWord addr = some v := by
  obtain ⟨h0, h1, h2, h3⟩ := readByte_writeWord_inside m addr v
  simp only [Memory.readWord, h0, h1, h2, h3, append_bytes]

/-- The bytes of two words lie apart. -/
theorem byteAddr_outside {a b : Word} (h : b ≠ a) {k : Nat} (hk : k < 4) :
    byteAddr b k < byteAddr a 0 ∨ byteAddr a 3 < byteAddr b k := by
  have : b.toNat ≠ a.toNat := fun he => h (BitVec.eq_of_toNat_eq he)
  unfold byteAddr
  omega

theorem readWord_writeWord_of_ne (m : Memory) {addr other : Word} (v : Word) (h : other ≠ addr) :
    (m.writeWord addr v).readWord other = m.readWord other := by
  have hbyte : ∀ k < 4, (m.writeWord addr v).readByte (byteAddr other k) =
      m.readByte (byteAddr other k) := fun k hk =>
    readByte_writeWord_of_outside m addr v (byteAddr_outside h hk)
  simp only [Memory.readWord, hbyte 0 (by omega), hbyte 1 (by omega), hbyte 2 (by omega),
    hbyte 3 (by omega)]

/-- A word with contents keeps some under any word write. -/
theorem exists_readWord_writeWord {m : Memory} {a : Word} (addr v : Word)
    (h : ∃ x, m.readWord a = some x) : ∃ y, (m.writeWord addr v).readWord a = some y := by
  by_cases ha : a = addr
  · subst ha
    exact ⟨v, readWord_writeWord_self m a v⟩
  · rwa [readWord_writeWord_of_ne m v ha]

/-- Settles O46: the word written is its four bytes, and the bytes of other words lie outside them. -/
theorem wordWriteReadsBack : Obligations.WordWriteReadsBack := by
  intro m addr v
  obtain ⟨hlow, -, -, hhigh⟩ := readByte_writeWord_inside m addr v
  exact ⟨readWord_writeWord_self m addr v, fun _ h => readWord_writeWord_of_ne m v h, hlow, hhigh⟩

/-! ### Offsets -/

/-- The frame and channel counts index the words of a block without gaps. -/
theorem frame_channel_lt {len oc n i : Nat} (hn : n < len) (hi : i < oc) :
    n * oc + i < len * oc :=
  calc
    n * oc + i < n * oc + oc := Nat.add_lt_add_left hi _
    _ = (n + 1) * oc := (Nat.succ_mul n oc).symm
    _ ≤ len * oc := Nat.mul_le_mul_right oc hn

theorem offset_eq_ofNat (oc n i : Word) :
    offset oc n i = BitVec.ofNat 32 (n.toNat * oc.toNat + i.toNat) := by
  simp [offset, BitVec.ofNat_add, BitVec.ofNat_mul]

/-- An offset that fits a word is not reduced. -/
theorem offset_toNat {len oc n i : Word} (fits : len.toNat * oc.toNat ≤ 2 ^ 32)
    (hn : n.toNat < len.toNat) (hi : i.toNat < oc.toNat) :
    (offset oc n i).toNat = n.toNat * oc.toNat + i.toNat := by
  rw [offset_eq_ofNat, BitVec.toNat_ofNat]
  exact Nat.mod_eq_of_lt ((frame_channel_lt hn hi).trans_le fits)

/-- Settles O31: frame and channel are the quotient and the remainder of the offset by `OC`. -/
theorem offsetsAreDistinct : Obligations.OffsetsAreDistinct := by
  intro len oc n i n' i' fits hn hn' hi hi' heq
  have hnat := congrArg BitVec.toNat heq
  rw [offset_toNat fits hn hi, offset_toNat fits hn' hi'] at hnat
  have hchannel : i.toNat = i'.toNat := by
    simpa [Nat.mul_add_mod', Nat.mod_eq_of_lt, hi, hi'] using congrArg (· % oc.toNat) hnat
  have hframe : n.toNat * oc.toNat = n'.toNat * oc.toNat := by omega
  exact ⟨BitVec.eq_of_toNat_eq (Nat.eq_of_mul_eq_mul_right (Nat.zero_lt_of_lt hi) hframe),
    BitVec.eq_of_toNat_eq hchannel⟩

end Sys2Proof.Machine

/-! ## The sample step

What it reads and writes, and where it stops the machine (`43_oscillator_mixer.md` R146;
`20_memory.md` R42, R51). -/

namespace Sys2Proof.Machine

/-- Settles O26: the sample arm of the engine step, with the mix and the next channel written out. -/
theorem sampleStepMixes : Obligations.SampleStepMixes :=
  fun _ _ more inFrame mayRead mayWrite read => engineStep_sample more inFrame mayRead read mayWrite

/-- Settles O27: the one arm left is the sample step, which writes the memory by one word write. -/
theorem sampleStepWritesOneWord : Obligations.SampleStepWritesOneWord := by
  intro s t x more inFrame read h
  obtain ⟨last, -⟩ | ⟨-, frameEnd, -⟩ | ⟨-, -, y, -, hy, -, rfl⟩ := engineStep_cases h
  · exact absurd last more
  · exact absurd frameEnd inFrame
  · obtain rfl : x = y := Option.some.inj (read.symm.trans hy)
    exact ⟨readWord_writeWord_self _ _ _, fun b hb => readByte_writeWord_of_outside _ _ _ hb⟩

/-! ### Faults -/

/-- A sample step of `u` has an access refused with the fault `f`: its read is not lent, or has no
contents, or its write is not lent (`93_implementation_defined.md` U3, U5). -/
def RefusedAccess (u : State) (f : Fault) : Prop :=
  (u.mayRead u.eng.inAddr = false ∧ f = .unlentRead u.eng.inAddr) ∨
  (u.mayRead u.eng.inAddr = true ∧ u.mem.readWord u.eng.inAddr = none ∧
    f = .unbackedRead u.eng.inAddr) ∨
  (u.mayRead u.eng.inAddr = true ∧ (∃ x, u.mem.readWord u.eng.inAddr = some x) ∧
    u.mayWrite u.eng.outAddr = false ∧ f = .unlentWrite u.eng.outAddr)

theorem sampleStep_eq_fault (u : State) (f : Fault) :
    sampleStep u = .fault f ↔ RefusedAccess u f := by
  unfold sampleStep RefusedAccess
  cases hr : u.mayRead u.eng.inAddr with
  | false => simp [eq_comm (a := f)]
  | true =>
    cases hx : u.mem.readWord u.eng.inAddr with
    | none => simp [eq_comm (a := f)]
    | some x => cases hw : u.mayWrite u.eng.outAddr <;> simp [eq_comm (a := f)]

/-- The engine step stops only in its sample arm. -/
theorem engineStep_eq_fault (u : State) (f : Fault) : engineStep u = .fault f ↔
    u.eng.n ≠ u.eng.len ∧ u.eng.i ≠ u.eng.oc ∧ RefusedAccess u f := by
  by_cases hn : u.eng.n = u.eng.len
  · simp [engineStep_done hn, hn]
  · by_cases hi : u.eng.i = u.eng.oc
    · simp [engineStep_advance hn hi, hi]
    · simp [engineStep, hn, hi, sampleStep_eq_fault]

/-- The engine is the one agent whose step can stop the machine. -/
theorem agentStep_fault {a : Agent} {u : State} {f : Fault} (h : agentStep a u = .fault f) :
    a = .engine ∧ engineStep u = .fault f := by
  have serve : ∀ p, serveStep p u ≠ .fault f := by
    intro p hp
    unfold serveStep at hp
    split at hp
    · next cw _ =>
      obtain ⟨t, ht, -⟩ := exec_outcome (decode p cw) u
      cases ht.symm.trans hp
    · cases hp
  cases a with
  | host p =>
    simp only [agentStep, hostStep] at h
    split at h <;> cases h
  | main => exact absurd h (serve .main)
  | engine => exact ⟨rfl, h⟩
  | control => exact absurd h (serve .ctrl)

theorem step_of_choose {s u : State} {a : Agent} (h : s.choose = some (a, u)) :
    step s = agentStep a u := by rw [step, h]

/-- A step stops where the engine is chosen for a sample step whose access is refused. -/
theorem step_eq_fault (s : State) (f : Fault) : step s = .fault f ↔
    ∃ u, s.choose = some (.engine, u) ∧ u.eng.n ≠ u.eng.len ∧ u.eng.i ≠ u.eng.oc ∧
      RefusedAccess u f := by
  constructor
  · intro h
    cases hc : s.choose with
    | none => simp [step, hc] at h
    | some au =>
      obtain ⟨a, u⟩ := au
      rw [step_of_choose hc] at h
      obtain ⟨rfl, hu⟩ := agentStep_fault h
      exact ⟨u, rfl, (engineStep_eq_fault u f).mp hu⟩
  · rintro ⟨u, hc, hu⟩
    rw [step_of_choose hc]
    exact (engineStep_eq_fault u f).mpr hu

/-- Settles O28, from the fault of the engine step; the two addresses are named there. -/
theorem onlyARefusedAccessFaults : Obligations.OnlyARefusedAccessFaults := by
  intro s f
  rw [step_eq_fault]
  constructor
  · rintro ⟨u, hc, hn, hi, hacc⟩
    exact ⟨u, _, _, hc, hn, hi, rfl, rfl, hacc⟩
  · rintro ⟨u, _, _, hc, hn, hi, rfl, rfl, hacc⟩
    exact ⟨u, hc, hn, hi, hacc⟩

end Sys2Proof.Machine

/-! ## Commands beside the engine

What no command touches, and that the commands of `CTRL` and the engine write nothing of each other's
(`20_memory.md` R40, R57; `70_reset_and_hazards.md` R204). -/

namespace Sys2Proof.Machine

/-! ### The frame of a command -/

theorem exec_mem_rom_schedule {i : Instr} {s t : State} (h : exec i s = .next t) :
    t.mem = s.mem ∧ t.rom = s.rom ∧ t.schedule = s.schedule := by
  rcases exec_cases h with ⟨_, _, rfl⟩ | ⟨_, rfl⟩ | ⟨_, _, rfl⟩ | ⟨_, _, _, _, _, _, _, _, rfl⟩ |
    ⟨_, _, _, _, _, rfl⟩ | ⟨_, _, _, _, rfl⟩ | ⟨_, _, _, _, rfl⟩ | ⟨_, _, _, _, _, rfl⟩ <;>
    simp

/-- An answer on `p` given from a state with the same ports leaves the other port. -/
theorem respond_port_congr {s u : State} (hm : u.main = s.main) (hc : u.ctrl = s.ctrl) {p q : Port}
    (r : Response) (h : q ≠ p) : (u.respond p r).port q = s.port q :=
  (respond_port_of_ne u r h).trans (port_congr hm hc q)

theorem exec_other_port {i : Instr} {s t : State} (h : exec i s = .next t) {q : Port}
    (hq : q ≠ i.port) : t.port q = s.port q := by
  rcases exec_cases h with ⟨_, _, rfl⟩ | ⟨rfl, rfl⟩ | ⟨rfl, _, rfl⟩ |
    ⟨_, _, _, _, _, _, _, _, rfl⟩ | ⟨_, _, rfl, _, _, rfl⟩ | ⟨_, rfl, _, _, rfl⟩ |
    ⟨_, rfl, _, _, rfl⟩ | ⟨_, _, _, rfl, _, rfl⟩
  · exact respond_port_of_ne s _ hq
  · exact respond_port_congr (created_main s) (created_ctrl s) _ hq
  · exact respond_port_congr (destroyed_main s) (destroyed_ctrl s) _ hq
  · exact port_congr (setEng_main s _) (setEng_ctrl s _) q
  · exact respond_port_congr (writeP_main s _ _) (writeP_ctrl s _ _) _ hq
  · exact respond_port_of_ne s _ hq
  · exact respond_port_of_ne s _ hq
  · exact respond_port_of_ne s _ hq

/-- Settles O20, by the shapes of effect a command can have. -/
theorem commandsTouchNoMemory : Obligations.CommandsTouchNoMemory := by
  intro i s t h
  obtain ⟨hmem, hrom, hschedule⟩ := exec_mem_rom_schedule h
  exact ⟨fun a => by rw [hmem], hrom, fun q hq => exec_other_port h hq, hschedule⟩

/-! ### `CTRL` and the engine

The engine's side of the state is all that the engine reads or writes. A command of `CTRL` writes
nothing of it, and the engine nothing else. -/

/-- The state `s` with the engine's side of `e`: the phase pair, `ENG`, port `MAIN`, the memory and the
counter of free values. -/
def State.withEngineSide (s e : State) : State :=
  { s with phaseS := e.phaseS, phaseC := e.phaseC, eng := e.eng, main := e.main, mem := e.mem,
           draw := e.draw }

theorem respond_ctrl_withEngineSide (s e : State) (r : Response) :
    (s.withEngineSide e).respond .ctrl r = (s.respond .ctrl r).withEngineSide e := rfl

theorem writeP_withEngineSide (s e : State) (k : ParamCell) (v : Word) :
    (s.withEngineSide e).writeP k v = (s.writeP k v).withEngineSide e := by
  cases k <;> rfl

theorem readP_withEngineSide (s e : State) (k : ParamCell) :
    (s.withEngineSide e).readP k = s.readP k := by
  cases k <;> rfl

/-- Behind the shared tests of a command on `CTRL` the engine's side has no part when it has none in the
operation. -/
theorem gate_withEngineSide {s t e : State} {own : Port} {needsLive indexOk : Bool}
    {act : State → Outcome} (h : s.gate .ctrl own needsLive indexOk act = .next t)
    (hact : .ctrl = own → act s = .next t → act (s.withEngineSide e) = .next (t.withEngineSide e)) :
    (s.withEngineSide e).gate .ctrl own needsLive indexOk act = .next (t.withEngineSide e) := by
  obtain ⟨rfl, hl, hx, hg⟩ | ⟨hp, hg⟩ | ⟨rfl, rfl, hl, hg⟩ | ⟨rfl, hl, rfl, hg⟩ :=
    gate_cases s .ctrl own needsLive indexOk act
  · rw [gate_pass (s.withEngineSide e) .ctrl act hl hx]
    exact hact rfl (hg.symm.trans h)
  · cases hg.symm.trans h
    rw [gate_wrong_port _ _ _ _ hp, respond_ctrl_withEngineSide]
  · cases hg.symm.trans h
    rw [gate_not_live (s.withEngineSide e) .ctrl _ _ hl, respond_ctrl_withEngineSide]
  · cases hg.symm.trans h
    rw [gate_bad_index (s.withEngineSide e) .ctrl _ hl, respond_ctrl_withEngineSide]

/-- A command on `CTRL` reads nothing of the engine's side. -/
theorem exec_withEngineSide {i : Instr} {s t : State} (e : State) (hi : i.port = .ctrl)
    (h : exec i s = .next t) : exec i (s.withEngineSide e) = .next (t.withEngineSide e) := by
  have bad : ∀ p, p = .ctrl → s.badCommand p = .next t →
      (s.withEngineSide e).badCommand p = .next (t.withEngineSide e) := by
    rintro _ rfl ⟨⟩
    rfl
  cases i with
  | create p =>
    cases hi
    unfold exec execCreate at h ⊢
    exact gate_withEngineSide h nofun
  | release p =>
    cases hi
    unfold exec execRelease at h ⊢
    exact gate_withEngineSide h nofun
  | proc p _ _ _ _ _ _ =>
    cases hi
    unfold exec execProc at h ⊢
    exact gate_withEngineSide h nofun
  | set p index v =>
    cases hi
    unfold exec execSet at h ⊢
    refine gate_withEngineSide h fun _ hact => ?_
    cases hact
    rw [writeP_withEngineSide, respond_ctrl_withEngineSide]
  | get p index =>
    cases hi
    unfold exec execGet at h ⊢
    refine gate_withEngineSide h fun _ hact => ?_
    cases hact
    rw [readP_withEngineSide, respond_ctrl_withEngineSide]
  | desc p index =>
    cases hi
    unfold exec execDesc at h ⊢
    refine gate_withEngineSide h fun _ hact => ?_
    cases hact
    rfl
  | getbuf p _ _ _ =>
    cases hi
    unfold exec execGetbuf at h ⊢
    refine gate_withEngineSide h fun _ hact => ?_
    cases hact
    rfl
  | reserved00 p => exact bad p hi h
  | reserved04To07 p _ => exact bad p hi h
  | reserved08To0F p _ => exact bad p hi h
  | reserved14To17 p _ => exact bad p hi h
  | reserved18To1F p _ => exact bad p hi h
  | reserved20To3F p _ => exact bad p hi h
  | reserved40To7F p _ => exact bad p hi h
  | reserved80ToFF p _ => exact bad p hi h
  | reservedRsvNonzero p _ _ => exact bad p hi h

/-- A command on `CTRL` writes nothing of the engine's side. -/
theorem exec_keeps_engineSide {i : Instr} {s t : State} (hi : i.port = .ctrl)
    (h : exec i s = .next t) : t.withEngineSide s = t := by
  rcases exec_cases h with ⟨_, _, rfl⟩ | ⟨rfl, _⟩ | ⟨rfl, _, _⟩ | ⟨_, _, _, _, _, _, rfl, _, _⟩ |
    ⟨_, _, _, _, _, rfl⟩ | ⟨_, _, _, _, rfl⟩ | ⟨_, _, _, _, rfl⟩ | ⟨_, _, _, _, _, rfl⟩
  · rw [hi]
    rfl
  · cases hi
  · cases hi
  · cases hi
  · rw [← respond_ctrl_withEngineSide, ← writeP_withEngineSide]
    rfl
  · rfl
  · rfl
  · rfl

/-- The engine writes nothing but its side. -/
theorem engineStep_keeps_rest {s t : State} (h : engineStep s = .next t) :
    s.withEngineSide t = t := by
  obtain ⟨_, rfl⟩ | ⟨_, _, rfl⟩ | ⟨_, _, _, _, _, _, rfl⟩ := engineStep_cases h
  · rfl
  · rfl
  · rfl

/-- The engine reads nothing but its side. -/
theorem engineStep_withEngineSide {s t : State} (c : State) (h : engineStep s = .next t) :
    engineStep (c.withEngineSide s) = .next (c.withEngineSide t) := by
  obtain ⟨hn, rfl⟩ | ⟨hn, hi, rfl⟩ | ⟨hn, hi, x, hr, hx, hw, rfl⟩ := engineStep_cases h
  · exact engineStep_done (s := c.withEngineSide s) hn
  · exact engineStep_advance (s := c.withEngineSide s) hn hi
  · exact engineStep_sample (s := c.withEngineSide s) hn hi hr hx hw

/-- Whether the engine stops is read from its side. -/
theorem engineStep_withEngineSide_fault {s : State} {f : Fault} (c : State)
    (h : engineStep s = .fault f) : engineStep (c.withEngineSide s) = .fault f := by
  rw [engineStep_eq_fault] at h ⊢
  exact h

/-- Settles O35: each of the two steps keeps what the other reads, and reads nothing the other writes. -/
theorem controlStepsCommuteWithEngineSteps : Obligations.ControlStepsCommuteWithEngineSteps := by
  intro i s hi
  obtain ⟨s', hs', -⟩ := exec_outcome i s
  refine ⟨s', hs', fun t ht => ⟨s'.withEngineSide t, ?_, ?_⟩, fun f hf => ?_⟩
  · rw [← exec_keeps_engineSide hi hs']
    exact engineStep_withEngineSide s' ht
  · rw [← engineStep_keeps_rest ht]
    exact exec_withEngineSide t hi hs'
  · rw [← exec_keeps_engineSide hi hs']
    exact engineStep_withEngineSide_fault s' hf

end Sys2Proof.Machine

/-! ## The sample memory over whole steps

What may change the memory, and that a started `PROC` keeps its input lent and readable
(`20_memory.md` R40, R51, R55; `43_oscillator_mixer.md` R159). -/

namespace Sys2Proof.Machine

@[simp] theorem popTodo_mem (s : State) (p : Port) : (s.popTodo p).mem = s.mem := setPort_mem s p _

theorem SameButTurn.mem {s u : State} (h : SameButTurn s u) : u.mem = s.mem := by rw [h]

theorem lent_congr {s t : State} (h : t.main.cmd = s.main.cmd) (a : Word) : t.lent a = s.lent a := by
  rw [State.lent, mayRead_congr h, mayWrite_congr h, State.lent]

/-! ### What changes the memory -/

/-- The moves that change the memory. -/
theorem Move.mem {a : Agent} {u t : State} (h : Move a u t) :
    t.mem = u.mem ∨
    (a = .engine ∧ u.eng.n ≠ u.eng.len ∧ u.eng.i ≠ u.eng.oc ∧
      ∃ y, t.mem = u.mem.writeWord u.eng.outAddr y) ∨
    ∃ p addr v, a = .host p ∧ (u.port p).todo.head? = some (.store addr v) ∧
      u.lent addr = false ∧ t.mem = u.mem.writeWord addr v := by
  cases h with
  | store next notLent => exact .inr (.inr ⟨_, _, _, rfl, by rw [next]; rfl, notLent, by simp⟩)
  | sample _ more inFrame _ _ _ => exact .inr (.inl ⟨rfl, more, inFrame, _, rfl⟩)
  | issue _ _ _ => exact .inl (by simp)
  | reset _ => exact .inl (by simp)
  | answer _ _ _ _ => exact .inl (by simp)
  | create _ _ _ => exact .inl (by simp)
  | release _ _ _ _ => exact .inl (by simp)
  | start _ _ _ _ => exact .inl rfl
  | set _ _ _ _ => exact .inl (by simp)
  | done _ _ => exact .inl (by simp)
  | advance _ _ _ => exact .inl rfl

/-- Settles O44, by the cases of a move. -/
theorem memoryChangesOnlyBySampleOrStore : Obligations.MemoryChangesOnlyBySampleOrStore := by
  intro s t h
  obtain ⟨-, rfl⟩ | ⟨a, u, hc, hu, hm⟩ := step_moves h
  · exact .inl rfl
  · rw [← hu.mem]
    obtain hsame | ⟨rfl, more, inFrame, hy⟩ | ⟨p, addr, v, rfl, next, notLent, hv⟩ := hm.mem
    · exact .inl hsame
    · exact .inr (.inl ⟨u, hc, more, inFrame, hy⟩)
    · rw [lent_congr (congrArg PortState.cmd hu.main)] at notLent
      exact .inr (.inr ⟨p, u, addr, v, hc, next, notLent, hv⟩)

/-! ### The lent input -/

theorem callCovered_of_free {s : State} (h : s.main.cmd = none) : CallCovered s :=
  fun cw held => by cases h.symm.trans held

theorem CallCovered.congr {s t : State} (hs : CallCovered s) (h : t.main.cmd = s.main.cmd) :
    CallCovered t := by
  unfold CallCovered
  rw [h]
  exact hs

theorem CallCovered.place {s : State} (hs : CallCovered s) {p : Port} {cw : Record}
    (covered : p = .main → callCovered cw = true) : CallCovered (s.place p cw) := by
  cases p with
  | main =>
    rintro _ ⟨⟩
    exact covered rfl
  | ctrl => exact hs.congr rfl

theorem CallCovered.respond {s : State} (hs : CallCovered s) (p : Port) (r : Response) :
    CallCovered (s.respond p r) := by
  cases p with
  | main => exact callCovered_of_free rfl
  | ctrl => exact hs.congr rfl

/-- A move places a covered call on `MAIN`, frees it, or leaves it. -/
theorem Move.keeps_callCovered {a : Agent} {u t : State} (hu : CallCovered u) (h : Move a u t) :
    CallCovered t := by
  cases h with
  | issue _ _ covered => exact (hu.congr (popTodo_main_cmd u _)).place covered
  | store _ _ => exact hu.congr (popTodo_main_cmd u _)
  | reset _ => exact callCovered_of_free rfl
  | answer _ _ _ _ => exact hu.respond _ _
  | create _ _ _ => exact callCovered_of_free rfl
  | release _ _ _ _ => exact callCovered_of_free rfl
  | start _ _ _ _ => exact hu.congr rfl
  | set _ _ _ _ => exact (hu.congr (by simp)).respond _ _
  | done _ _ => exact callCovered_of_free rfl
  | advance _ _ _ => exact hu.congr rfl
  | sample _ _ _ _ _ _ => exact hu.congr rfl

/-- Settles O58, by the cases of a move: the guard of the issue is the cover of the call. -/
theorem stepKeepsTheCallCovered : Obligations.StepKeepsTheCallCovered := fun _ _ hs h =>
  step_keeps (fun _ _ hu hs => hs.congr (congrArg PortState.cmd hu.main))
    (fun _ _ _ hu hm => hm.keeps_callCovered hu) hs h

/-! ### The readable input -/

/-- Within a frame of a coherent running `PROC` the engine's offset is one of those of its call. -/
theorem EngineCoherent.offset_lt {u : State} (hu : EngineCoherent u) (run : u.eng.run = true)
    (more : u.eng.n ≠ u.eng.len) (inFrame : u.eng.i ≠ u.eng.oc) :
    u.eng.n.toNat * u.eng.oc.toNat + u.eng.i.toNat < u.eng.len.toNat * u.eng.oc.toNat := by
  obtain ⟨_, _, _, _, _, _, _, hn, hi, _⟩ := hu run
  have hn' : u.eng.n.toNat ≠ u.eng.len.toNat := fun he => more (BitVec.eq_of_toNat_eq he)
  have hi' : u.eng.i.toNat ≠ u.eng.oc.toNat := fun he => inFrame (BitVec.eq_of_toNat_eq he)
  exact frame_channel_lt (by omega) (by omega)

/-- Within a frame the word a covered `PROC` reads and the word it writes are lent to it. -/
theorem EngineCoherent.lent_accesses {u : State} (hu : EngineCoherent u) (hc : CallCovered u)
    (run : u.eng.run = true) (more : u.eng.n ≠ u.eng.len) (inFrame : u.eng.i ≠ u.eng.oc) :
    u.mayRead u.eng.inAddr = true ∧ u.mayWrite u.eng.outAddr = true := by
  have hlt := hu.offset_lt run more inFrame
  obtain ⟨cw, held, h0, hib, hob, hlen, hoc, -, -, -⟩ := hu run
  have hoff : (offset u.eng.oc u.eng.n u.eng.i).toNat < outWords cw := by
    rw [offset_eq_ofNat, BitVec.toNat_ofNat, outWords, ← hlen, ← hoc]
    exact (Nat.mod_le _ _).trans_lt hlt
  rw [Eng.inAddr, Eng.outAddr, hib, hob]
  exact ⟨mayRead_of_callCovered held h0 (hc cw held) hoff, mayWrite_of_outWords held h0 hoff⟩

/-- Within a frame of a coherent `PROC` with readable input the word read has contents. -/
theorem InputReadable.exists_readWord {u : State} (hr : InputReadable u) (hu : EngineCoherent u)
    (run : u.eng.run = true) (more : u.eng.n ≠ u.eng.len) (inFrame : u.eng.i ≠ u.eng.oc) :
    ∃ x, u.mem.readWord u.eng.inAddr = some x := by
  rw [Eng.inAddr, offset_eq_ofNat]
  exact hr run _ (hu.offset_lt run more inFrame)

/-- Within a frame no access of a coherent, covered `PROC` with readable input is refused. -/
theorem not_refusedAccess {u : State} (hu : EngineCoherent u) (hc : CallCovered u)
    (hr : InputReadable u) (run : u.eng.run = true) (more : u.eng.n ≠ u.eng.len)
    (inFrame : u.eng.i ≠ u.eng.oc) (f : Fault) : ¬ RefusedAccess u f := by
  obtain ⟨mayRead, mayWrite⟩ := hu.lent_accesses hc run more inFrame
  obtain ⟨x, hx⟩ := hr.exists_readWord hu run more inFrame
  simp [RefusedAccess, mayRead, mayWrite, hx]

theorem inputReadable_of_idle {s : State} (h : s.eng.run = false) : InputReadable s :=
  fun run => by cases h.symm.trans run

theorem InputReadable.congr {s t : State} (hs : InputReadable s) (he : t.eng = s.eng)
    (hm : t.mem = s.mem) : InputReadable t := by
  unfold InputReadable
  rw [he, hm]
  exact hs

theorem Readable.writeWord {m : Memory} {base : Word} {count : Nat} (h : Readable m base count)
    (addr v : Word) : Readable (m.writeWord addr v) base count :=
  fun k hk => exists_readWord_writeWord addr v (h k hk)

/-- A move of the main agent finds no `PROC` in flight; every other leaves the input words and their
contents, or writes one word more, or ends the `PROC`. -/
theorem Move.keeps_inputReadable {a : Agent} {u t : State} (run : u.eng.run = true)
    (hu : InputReadable u) (h : Move a u t) : InputReadable t := by
  cases h with
  | issue _ _ _ => exact hu.congr (by simp) (by simp)
  | store _ _ =>
    intro _
    simpa using (hu run).writeWord _ _
  | reset _ => exact inputReadable_of_idle rfl
  | answer _ _ _ _ => exact hu.congr (by simp) (by simp)
  | create _ idle _ => cases idle.symm.trans run
  | release _ idle _ _ => cases idle.symm.trans run
  | start _ idle _ _ => cases idle.symm.trans run
  | set _ _ _ _ => exact hu.congr (by simp) (by simp)
  | done _ _ => exact inputReadable_of_idle rfl
  | advance _ _ _ => exact hu
  | sample _ _ _ _ _ _ => exact fun _ => (hu run).writeWord _ _

/-- Settles O29: the offset of a sample step is one of those of its call, so its words are lent and the
word it reads has contents; no move takes contents away. -/
theorem readableInputNeverFaults : Obligations.ReadableInputNeverFaults := by
  intro s hs hcov hread
  constructor
  · intro f h
    obtain ⟨u, hc, more, inFrame, refused⟩ := (step_eq_fault s f).mp h
    obtain ⟨run, hu⟩ := choose_enabled hc
    have hcmd := congrArg PortState.cmd hu.main
    exact not_refusedAccess (hs.congr hu.eng hcmd) (hcov.congr hcmd) (hread.congr hu.eng hu.mem)
      (by rw [hu.eng]; exact run) more inFrame f refused
  · intro t run h
    obtain ⟨-, rfl⟩ | ⟨a, u, -, hu, hm⟩ := step_moves h
    · exact hread
    · exact hm.keeps_inputReadable (by rw [hu.eng]; exact run) (hread.congr hu.eng hu.mem)

end Sys2Proof.Machine

/-! ## The encoding

The header word of a record selects the row of the opcode table, and the other words are only the
operands the row names: what decoding gives, what encoding gives back, and which words a command reads
(`30_encoding.md` R60 to R78). -/

/-! ### Header and operands -/

namespace Sys2Proof

/-- The instruction `i` with each operand its row names taken from the words of `cw` (`30_encoding.md`
R70 to R76). -/
def Instr.withOperands (cw : Record) (i : Instr) : Instr :=
  match i with
  | .proc p _ _ _ _ _ _ => .proc p cw.cw1 cw.cw2 cw.cw3 cw.cw4 cw.cw5 cw.cw6
  | .set p _ _ => .set p cw.cw1 cw.cw2
  | .get p _ => .get p cw.cw1
  | .desc p _ => .desc p cw.cw1
  | .getbuf p _ _ _ => .getbuf p cw.cw1 cw.cw2 cw.cw3
  | .create p => .create p
  | .release p => .release p
  | .reserved00 p => .reserved00 p
  | .reserved04To07 p low => .reserved04To07 p low
  | .reserved08To0F p low => .reserved08To0F p low
  | .reserved14To17 p low => .reserved14To17 p low
  | .reserved18To1F p low => .reserved18To1F p low
  | .reserved20To3F p low => .reserved20To3F p low
  | .reserved40To7F p low => .reserved40To7F p low
  | .reserved80ToFF p low => .reserved80ToFF p low
  | .reservedRsvNonzero p rsv opc => .reservedRsvNonzero p rsv opc

/-- The record of a header word with every operand word zero. -/
def headerRecord (header : Word) : Record := ⟨header, 0, 0, 0, 0, 0, 0⟩

end Sys2Proof

namespace Sys2Proof.Machine

theorem encodeHeader_withOperands (cw : Record) (i : Instr) :
    encodeHeader (i.withOperands cw) = encodeHeader i := by
  cases i <;> rfl

theorem encode_cw0 (i : Instr) : (encode i).cw0 = encodeHeader i := by
  cases i <;> rfl

/-- The encoding writes each operand where its row reads it. -/
theorem withOperands_encode (i : Instr) : i.withOperands (encode i) = i := by
  cases i <;> rfl

/-- The header alone selects the row; the row's operands are filled in from the record
(`30_encoding.md` R61, R68). -/
theorem decode_eq_header_withOperands (p : Port) (cw : Record) :
    decode p cw = (decode p (headerRecord cw.cw0)).withOperands cw := by
  simp only [decode, apply_ite (Instr.withOperands cw)]
  rfl

/-! ### The opcode map -/

/-- Each of the 256 opcodes has a row of its own, whose header word it is (`30_encoding.md` R69). -/
theorem encodeHeader_decode_opcode (p : Port) :
    ∀ opc : BitVec 8, encodeHeader (decode p (headerRecord (0#24 ++ opc))) = 0#24 ++ opc := by
  cases p <;> decide

theorem decode_of_rsv_ne_zero {p : Port} {cw : Record} (h : cw.rsv ≠ 0) :
    decode p cw = .reservedRsvNonzero p cw.rsv cw.opc := if_pos h

/-- Decoding keeps the whole header word. -/
theorem encodeHeader_decode (p : Port) (cw : Record) : encodeHeader (decode p cw) = cw.cw0 := by
  by_cases h : cw.rsv = 0
  · rw [decode_eq_header_withOperands, encodeHeader_withOperands, cw0_eq_rsv_append_opc cw, h]
    exact encodeHeader_decode_opcode p cw.opc
  · rw [decode_of_rsv_ne_zero h]
    exact (cw0_eq_rsv_append_opc cw).symm

theorem decode_wellFormed (p : Port) (cw : Record) : (decode p cw).wellFormed = true := by
  by_cases h : cw.rsv = 0
  · simp only [decode, h, ne_eq, not_true_eq_false, if_false, apply_ite Instr.wellFormed]
    simp only [Instr.wellFormed, ite_self]
  · rw [decode_of_rsv_ne_zero h]
    simpa [Instr.wellFormed] using h

/-- The header word of a well-formed instruction decodes to its row. -/
theorem decode_headerRecord {i : Instr} (wf : i.wellFormed = true) :
    decode i.port (headerRecord (encodeHeader i)) =
      i.withOperands (headerRecord (encodeHeader i)) := by
  cases i with
  | create p | release p | proc p _ _ _ _ _ _ | set p _ _ | get p _ | desc p _ | getbuf p _ _ _
  | reserved00 p =>
    simp only [encodeHeader]
    rfl
  | reserved04To07 p low | reserved08To0F p low | reserved14To17 p low | reserved18To1F p low
  | reserved20To3F p low | reserved40To7F p low | reserved80ToFF p low =>
    revert low
    cases p <;> decide
  | reservedRsvNonzero p rsv opc =>
    have hrsv : (headerRecord (rsv ++ opc)).rsv = rsv := BitVec.extractLsb'_append_eq_left
    have hopc : (headerRecord (rsv ++ opc)).opc = opc := BitVec.extractLsb'_append_eq_right
    have hne : rsv ≠ 0 := by simpa [Instr.wellFormed] using wf
    simp only [encodeHeader, Instr.port, Instr.withOperands]
    rw [decode_of_rsv_ne_zero (by rwa [hrsv]), hrsv, hopc]

/-- A record with the header word of a well-formed instruction decodes to that instruction with the
record's operands. -/
theorem decode_of_cw0 {i : Instr} {cw : Record} (wf : i.wellFormed = true)
    (h : cw.cw0 = encodeHeader i) : decode i.port cw = i.withOperands cw := by
  rw [decode_eq_header_withOperands, h, decode_headerRecord wf]
  cases i <;> rfl

/-- Records with the same header word decode to the same row, each with its own operands. -/
theorem decode_congr_header {p : Port} {x y : Record} (h : x.cw0 = y.cw0) :
    decode p y = (decode p x).withOperands y := by
  have hy := decode_of_cw0 (decode_wellFormed p x) (h.symm.trans (encodeHeader_decode p x).symm)
  rwa [decode_port] at hy

/-- Settles O1: the header word selects the row, and the encoding holds the row's operands where the
row reads them. -/
theorem decodeEncodeAgree : Obligations.DecodeEncodeAgree := by
  intro i wf
  rw [decode_of_cw0 wf (encode_cw0 i), withOperands_encode]

/-- Settles O2: the rows that name operands read them from the record's own words, which the encoding
puts back. -/
theorem decodingKeepsHeaderAndOperands : Obligations.DecodingKeepsHeaderAndOperands := by
  intro p cw
  have row {i : Instr} (hp : i.port = p) (wf : i.wellFormed = true) (h : cw.cw0 = encodeHeader i) :
      decode p cw = i.withOperands cw := hp ▸ decode_of_cw0 wf h
  have header : (encode (decode p cw)).cw0 = cw.cw0 :=
    (encode_cw0 _).trans (encodeHeader_decode p cw)
  have again := decodeEncodeAgree (decode p cw) (decode_wellFormed p cw)
  rw [decode_port] at again
  refine ⟨decode_wellFormed p cw, decode_port p cw, header, again,
    ⟨header, fun h => ?_, fun h => ?_, fun h => ?_, fun h => ?_⟩, fun h => ?_, fun h => ?_⟩
  · rw [row (i := .proc p 0 0 0 0 0 0) rfl rfl (header.symm.trans h)]
    exact ⟨rfl, rfl, rfl, rfl, rfl⟩
  · rw [row (i := .set p 0 0) rfl rfl (header.symm.trans h)]
    exact ⟨rfl, rfl⟩
  · rw [row (i := .get p 0) rfl rfl (header.symm.trans h)]
    rfl
  · rw [row (i := .desc p 0) rfl rfl (header.symm.trans h)]
    rfl
  · rw [row (i := .proc p 0 0 0 0 0 0) rfl rfl h]
    rfl
  · rw [row (i := .getbuf p 0 0 0) rfl rfl h]
    exact ⟨rfl, rfl, rfl⟩

/-- Settles O4: the decoder evaluates on each of the ten records. -/
theorem workedEncodingsDecode : Obligations.WorkedEncodingsDecode := by
  unfold Obligations.WorkedEncodingsDecode
  decide

/-! ### Ignored words -/

/-- Executing an instruction reads only the operands that have an effect. -/
theorem exec_withOperands_congr {i : Instr} {x y : Record} (s : State)
    (header : x.cw0 = encodeHeader i) (h : SameUsedWords x y) :
    exec (i.withOperands x) s = exec (i.withOperands y) s := by
  obtain ⟨-, hproc, hset, hget, hdesc⟩ := h
  cases i with
  | proc p _ _ _ _ _ _ =>
    obtain ⟨h1, h2, h3, h5, h6⟩ := hproc header
    simp only [Instr.withOperands, h1, h2, h3, h5, h6]
    rfl
  | set p _ _ =>
    obtain ⟨h1, h2⟩ := hset header
    simp only [Instr.withOperands, h1, h2]
  | get p _ => simp only [Instr.withOperands, hget header]
  | desc p _ => simp only [Instr.withOperands, hdesc header]
  | getbuf p _ _ _ | create p | release p | reserved00 p | reserved04To07 p _ | reserved08To0F p _
  | reserved14To17 p _ | reserved18To1F p _ | reserved20To3F p _ | reserved40To7F p _
  | reserved80ToFF p _ | reservedRsvNonzero p _ _ => rfl

/-- Settles O3: the two records select one row, and it reads only the words they agree on. -/
theorem ignoredWordsHaveNoEffect : Obligations.IgnoredWordsHaveNoEffect := by
  intro p x y s h
  calc
    exec (decode p x) s = exec ((decode p x).withOperands x) s := by
      rw [← decode_congr_header rfl]
    _ = exec ((decode p x).withOperands y) s :=
      exec_withOperands_congr s (encodeHeader_decode p x).symm h
    _ = exec (decode p y) s := by rw [← decode_congr_header h.1]

end Sys2Proof.Machine

/-! ## Answers to commands

The answer to a reserved encoding, and what a command answered with a code other than `Ok` leaves
(`30_encoding.md` R77; `60_exceptions.md` R182). -/

namespace Sys2Proof.Machine

theorem answersOnly_respond (s : State) (p : Port) (r : Response) :
    AnswersOnly s (s.respond p r) p r :=
  ⟨respond_port_self s p r, fun _ hq => respond_port_of_ne s r hq, by
    simp [SameButPorts, SameMemory]⟩

/-! ### Reserved encodings -/

/-- A command not served on its port is answered `BadCommand`, and nothing else is done. -/
theorem exec_of_not_served {i : Instr} (s : State) (h : served i = false) :
    exec i s = .next (s.respond i.port ResultCode.badCommand.response) := by
  cases i with
  | create p | release p | proc p _ _ _ _ _ _ | set p _ _ | get p _ | desc p _ | getbuf p _ _ _ =>
    simp only [exec, execCreate, execRelease, execProc, execSet, execGet, execDesc, execGetbuf]
    exact gate_wrong_port s _ _ _ (ne_of_beq_false h)
  | reserved00 p | reserved04To07 p _ | reserved08To0F p _ | reserved14To17 p _
  | reserved18To1F p _ | reserved20To3F p _ | reserved40To7F p _ | reserved80ToFF p _
  | reservedRsvNonzero p _ _ => rfl

/-- The header word of an operation on its own port is no reserved encoding there. -/
theorem not_isReserved_of_served {i : Instr} {cw : Record} (hs : served i = true)
    (h : cw.cw0 = encodeHeader i) : ¬ IsReserved i.port cw := by
  unfold IsReserved
  rw [h]
  cases i with
  | create p | release p | proc p _ _ _ _ _ _ | set p _ _ | get p _ | desc p _ | getbuf p _ _ _ =>
    obtain rfl := eq_of_beq hs
    simp [encodeHeader, Instr.port]
  | reserved00 p | reserved04To07 p _ | reserved08To0F p _ | reserved14To17 p _
  | reserved18To1F p _ | reserved20To3F p _ | reserved40To7F p _ | reserved80ToFF p _
  | reservedRsvNonzero p _ _ => cases hs

/-- A reserved encoding decodes to a command that is not served on its port. -/
theorem served_decode_of_isReserved {p : Port} {cw : Record} (h : IsReserved p cw) :
    served (decode p cw) = false := by
  by_contra hs
  refine not_isReserved_of_served (Bool.eq_true_of_not_eq_false hs) (encodeHeader_decode p cw).symm ?_
  rwa [decode_port]

/-- Settles O5: what is reserved by the rule is not served, and what is not served is turned away. -/
theorem reservedEncodingAnswersBadCommand : Obligations.ReservedEncodingAnswersBadCommand := by
  intro p cw s h
  have hexec := exec_of_not_served s (served_decode_of_isReserved h)
  rw [decode_port] at hexec
  exact ⟨_, hexec, answersOnly_respond s p _⟩

/-- Settles O6: no reserved row is served on either port. -/
theorem reservedRowsComplete : Obligations.ReservedRowsComplete := by
  intro p s b2 b3 b5 b6 b7 rsv opc
  exact ⟨s.respond p ResultCode.badCommand.response, answersOnly_respond s p _,
    exec_of_not_served s rfl, exec_of_not_served s rfl, exec_of_not_served s rfl,
    exec_of_not_served s rfl, exec_of_not_served s rfl, exec_of_not_served s rfl,
    exec_of_not_served s rfl, exec_of_not_served s rfl, exec_of_not_served s rfl⟩

/-! ### Failed commands -/

/-- A performed operation answers `Ok`, but for the start of a `PROC`, which leaves its port. -/
theorem Performed.port_resp {i : Instr} {s t : State} (h : Performed i s t) :
    t.port i.port = s.port i.port ∨
      ∃ r, (t.port i.port).resp = some r ∧ r.res = ResultCode.ok.word := by
  rcases h with ⟨rfl, rfl⟩ | ⟨rfl, _, rfl⟩ | ⟨_, _, _, _, _, _, rfl, _, rfl⟩ |
    ⟨_, _, rfl, _, _, rfl⟩ | ⟨_, rfl, _, _, rfl⟩ | ⟨_, rfl, _, _, rfl⟩ | ⟨_, _, _, rfl, _, rfl⟩
  · exact .inr ⟨_, rfl, rfl⟩
  · exact .inr ⟨_, rfl, rfl⟩
  · exact .inl rfl
  · exact .inr ⟨_, rfl, rfl⟩
  · exact .inr ⟨_, rfl, rfl⟩
  · exact .inr ⟨_, rfl, rfl⟩
  · exact .inr ⟨_, rfl, rfl⟩

/-- Settles O18: a command that is performed gives no response or `Ok`, and one that is turned away
changes only its port. -/
theorem failedCommandLeavesNoTrace : Obligations.FailedCommandLeavesNoTrace := by
  intro i s t r noResp hexec hr hfail
  rcases exec_cases hexec with ⟨code, -, rfl⟩ | performed
  · obtain rfl : code.response = r := by simpa using hr
    exact ⟨answersOnly_respond s _ _, rfl, rfl, rfl, rfl, rfl⟩
  · obtain same | ⟨r', hr', hok⟩ := performed.port_resp
    · rw [same, noResp] at hr
      cases hr
    · cases hr'.symm.trans hr
      exact absurd hok hfail

end Sys2Proof.Machine

/-! ## What the step runs

No step is refused, and a step runs what the chosen agent's port holds (`30_encoding.md` R78;
`60_exceptions.md` R190, R191). -/

namespace Sys2Proof.Machine

theorem exec_ne_refused (i : Instr) (s : State) (r : Refusal) : exec i s ≠ .refused r := by
  intro h
  obtain ⟨t, ht, -⟩ := exec_outcome i s
  cases ht.symm.trans h

theorem serveStep_of_cmd {p : Port} {s : State} {cw : Record} (h : (s.port p).cmd = some cw) :
    serveStep p s = exec (decode p cw) s := by
  rw [serveStep, h]

theorem serveStep_ne_refused (p : Port) (s : State) (r : Refusal) : serveStep p s ≠ .refused r := by
  cases hc : (s.port p).cmd with
  | none => simp [serveStep, hc]
  | some cw =>
    rw [serveStep_of_cmd hc]
    exact exec_ne_refused _ s r

theorem hostStep_ne_refused (p : Port) (s : State) (r : Refusal) : hostStep p s ≠ .refused r := by
  cases ht : (s.port p).todo <;> simp [hostStep, ht]

theorem sampleStep_ne_refused (s : State) (r : Refusal) : sampleStep s ≠ .refused r := by
  unfold sampleStep
  split
  · split
    · split <;> simp
    · simp
  · simp

theorem engineStep_ne_refused (s : State) (r : Refusal) : engineStep s ≠ .refused r := by
  by_cases last : s.eng.n = s.eng.len
  · simp [engineStep_done last]
  · by_cases frameEnd : s.eng.i = s.eng.oc
    · simp [engineStep_advance last frameEnd]
    · rw [engineStep, if_neg last, if_neg frameEnd]
      exact sampleStep_ne_refused s r

/-- Settles O30, by the agents. -/
theorem noStepIsRefused : Obligations.NoStepIsRefused := by
  intro s r
  cases hc : s.choose with
  | none => simp [step, hc]
  | some chosen =>
    obtain ⟨a, u⟩ := chosen
    rw [step_of_choose hc]
    cases a with
    | host p => exact hostStep_ne_refused p u r
    | main => exact serveStep_ne_refused .main u r
    | engine => exact engineStep_ne_refused u r
    | control => exact serveStep_ne_refused .ctrl u r

/-- From reset, the agent serving the port a record was placed on is the only one with a step. -/
theorem choose_place_reset (p : Port) (cw : Record) :
    (State.reset.place p cw).choose = some (servingAgent p, State.reset.place p cw) := by
  cases p <;> rfl

/-- The step of the agent serving a port that holds a record. -/
theorem step_of_choose_servingAgent {p : Port} {s t : State} {cw : Record}
    (hc : s.choose = some (servingAgent p, t)) (held : (t.port p).cmd = some cw) :
    step s = exec (decode p cw) t := by
  have hserve : agentStep (servingAgent p) t = serveStep p t := by cases p <;> rfl
  rw [step_of_choose hc, hserve, serveStep_of_cmd held]

/-- Settles O36: the step is that of the agent chosen, and a serving agent executes what it holds. -/
theorem stepRunsTheDecodedInstruction : Obligations.StepRunsTheDecodedInstruction :=
  ⟨fun _ _ _ hc held => step_of_choose_servingAgent (p := .main) hc held,
    fun _ _ _ hc held => step_of_choose_servingAgent (p := .ctrl) hc held,
    fun _ _ hc => step_of_choose hc,
    fun _ _ _ hc => (choose_enabled hc).2,
    fun p cw => step_of_choose_servingAgent (choose_place_reset p cw) (by simp)⟩

end Sys2Proof.Machine

/-! ## Index checks and the countdown of a `PROC`

The two validators on the unsigned reading, and the counters of the engine against the steps that are
left (`40_numerics.md` R101, R102, R104; `43_oscillator_mixer.md` R145). -/

namespace Sys2Proof.Machine

/-! ### Index checks -/

theorem idxValid_iff_toInt (w : Word) : idxValid w = true ↔ 0 ≤ w.toInt ∧ w.toInt ≤ 2 := by
  simp [idxValid]

theorem descValid_iff_toInt (w : Word) : descValid w = true ↔ 0 ≤ w.toInt ∧ w.toInt < 2 := by
  simp [descValid]

/-- Settles O11: the words are told apart by their signed readings. -/
theorem indexChecksAcceptExactly : Obligations.IndexChecksAcceptExactly := by
  intro w
  have h0 : w = 0 ↔ w.toInt = 0 := BitVec.toInt_inj.symm
  have h1 : w = 1 ↔ w.toInt = 1 := BitVec.toInt_inj.symm
  have h2 : w = 2 ↔ w.toInt = 2 := BitVec.toInt_inj.symm
  rw [idxValid_iff_toInt, descValid_iff_toInt, h0, h1, h2]
  omega

/-! ### The countdown -/

/-- After the last frame only the done step is left. -/
theorem stepsLeft_of_last {e : Eng} (last : e.n = e.len) : e.stepsLeft = 1 := by
  simp [Eng.stepsLeft, last]

/-- Before the last frame the steps left are those of the current frame, those of the frames after it
and the done step. -/
theorem stepsLeft_of_more {e : Eng} (more : e.n.toNat < e.len.toNat) (hi : e.i.toNat ≤ e.oc.toNat) :
    e.stepsLeft = (e.oc.toNat + 1 - e.i.toNat) +
      (e.len.toNat - (e.n.toNat + 1)) * (e.oc.toNat + 1) + 1 := by
  obtain ⟨rest, hrest⟩ : ∃ rest, e.len.toNat - e.n.toNat = rest + 1 :=
    Nat.exists_eq_add_one.mpr (Nat.sub_pos_of_lt more)
  have hnext : e.len.toNat - (e.n.toNat + 1) = rest := by omega
  rw [Eng.stepsLeft, hrest, hnext, Nat.succ_mul]
  omega

/-- A counter below its bound steps by one (`40_numerics.md` R104). -/
theorem toNat_add_one_of_lt {x bound : Word} (h : x.toNat < bound.toNat) :
    (x + 1).toNat = x.toNat + 1 := by
  bv_omega

theorem stepsLeft_nextFrame {e : Eng} (more : e.n.toNat < e.len.toNat) (frameEnd : e.i = e.oc) :
    e.nextFrame.stepsLeft + 1 = e.stepsLeft := by
  have hzero : (0 : Word).toNat = 0 := rfl
  rw [stepsLeft_of_more more (by rw [frameEnd]), frameEnd]
  simp only [Eng.stepsLeft, nextFrame_len, nextFrame_n, nextFrame_oc, nextFrame_i,
    toNat_add_one_of_lt more, hzero]
  omega

theorem stepsLeft_nextChannel {e : Eng} (more : e.n.toNat < e.len.toNat)
    (inFrame : e.i.toNat < e.oc.toNat) : e.nextChannel.stepsLeft + 1 = e.stepsLeft := by
  have hstep := toNat_add_one_of_lt inFrame
  rw [stepsLeft_of_more more inFrame.le, stepsLeft_of_more (e := e.nextChannel) more
    (by rw [nextChannel_i, hstep]; exact inFrame)]
  simp only [nextChannel_len, nextChannel_n, nextChannel_oc, nextChannel_i, hstep]
  omega

/-- Settles O32, by the three arms of the engine step. -/
theorem engineStepCountsDown : Obligations.EngineStepCountsDown := by
  intro s t hs run h
  obtain ⟨_, _, _, _, _, _, _, hn, hi, _⟩ := hs run
  obtain ⟨last, rfl⟩ | ⟨more, frameEnd, rfl⟩ | ⟨more, inFrame, _, _, _, _, rfl⟩ :=
    engineStep_cases h
  · exact .inr ⟨by simp, stepsLeft_of_last last⟩
  · have hlt := lt_of_le_of_ne hn (mt BitVec.eq_of_toNat_eq more)
    exact .inl ⟨by simpa using run, by simpa using stepsLeft_nextFrame hlt frameEnd⟩
  · have hlt := lt_of_le_of_ne hn (mt BitVec.eq_of_toNat_eq more)
    have hich := lt_of_le_of_ne hi (mt BitVec.eq_of_toNat_eq inFrame)
    exact .inl ⟨by simpa using run, by simpa using stepsLeft_nextChannel hlt hich⟩

end Sys2Proof.Machine

/-! ## Rounding

`round32` as rounding to the nearest datum (`40_numerics.md` R86 to R88): every magnitude is a
significand times a power of two, the rounding is exact on those, and no datum is nearer than the one
it gives. -/

namespace Sys2Proof.Machine

/-! ### Data as grid exponent and significand -/

/-- A significand `q` of at most 24 bits, or `2^24`, on the grid of multiples of `2^g` units: short of
24 bits only on the finest grid (`40_numerics.md` R88 (b)). Bits 30..0 of the datum of magnitude
`q * 2^g` units are `g * 2^23 + q`. -/
def OnGrid (g q : Nat) : Prop := q ≤ 2 ^ 24 ∧ (g = 0 ∨ 2 ^ 23 ≤ q)

theorem magnitude_packSign (sg : Bool) {g q : Nat} (h : OnGrid g q) (hb : g * 2 ^ 23 + q < 2 ^ 31) :
    magnitude (packSign sg (g * 2 ^ 23 + q)) = q * 2 ^ g := by
  obtain ⟨hq, hg⟩ := h
  rw [magnitude, expField_packSign sg hb, fracField_packSign sg hb]
  obtain hlow | hmid | hcarry : q < 2 ^ 23 ∨ (2 ^ 23 ≤ q ∧ q < 2 ^ 24) ∨ q = 2 ^ 24 := by omega
  · obtain rfl : g = 0 := hg.resolve_right (by omega)
    rw [if_pos (by omega)]
    omega
  · have hexp : (g * 2 ^ 23 + q) / 2 ^ 23 = g + 1 := by omega
    have hsig : 2 ^ 23 + (g * 2 ^ 23 + q) % 2 ^ 23 = q := by omega
    rw [hexp, hsig, if_neg (by omega), Nat.add_sub_cancel]
  · subst hcarry
    have hexp : (g * 2 ^ 23 + 2 ^ 24) / 2 ^ 23 = g + 2 := by omega
    have hsig : 2 ^ 23 + (g * 2 ^ 23 + 2 ^ 24) % 2 ^ 23 = 2 ^ 23 := by omega
    rw [hexp, hsig, if_neg (by omega), show g + 2 - 1 = g + 1 by omega, pow_succ]
    omega

/-- Every datum has a significand below `2^24` on its grid. -/
theorem exists_onGrid (v : Word) : ∃ g q, OnGrid g q ∧ q < 2 ^ 24 ∧ g * 2 ^ 23 + q < 2 ^ 31 ∧
    v = packSign (signBit v) (g * 2 ^ 23 + q) := by
  have hb : v.toNat % 2 ^ 31 < 2 ^ 31 := Nat.mod_lt _ (by decide)
  have hv := (packSign_fields v).symm
  generalize v.toNat % 2 ^ 31 = bits at hb hv
  by_cases hsub : bits < 2 ^ 23
  · exact ⟨0, bits, ⟨by omega, .inl rfl⟩, by omega, by omega, by rwa [Nat.zero_mul, Nat.zero_add]⟩
  · have hsplit : (bits / 2 ^ 23 - 1) * 2 ^ 23 + (2 ^ 23 + bits % 2 ^ 23) = bits := by omega
    exact ⟨bits / 2 ^ 23 - 1, 2 ^ 23 + bits % 2 ^ 23, ⟨by omega, .inr (by omega)⟩, by omega,
      by rwa [hsplit], by rwa [hsplit]⟩

/-! ### Classes of a packed word -/

theorem isNaN_packSign (sg : Bool) {bits : Nat} (h : bits < 2 ^ 31) :
    isNaN (packSign sg bits) = decide (infBits < bits) := by
  rw [Bool.eq_iff_iff, decide_eq_true_iff, isNaN, expField_packSign sg h, fracField_packSign sg h]
  simp only [infBits, Bool.and_eq_true, beq_iff_eq, bne_iff_ne]
  omega

theorem isInf_packSign (sg : Bool) {bits : Nat} (h : bits < 2 ^ 31) :
    isInf (packSign sg bits) = decide (bits = infBits) := by
  rw [Bool.eq_iff_iff, decide_eq_true_iff, isInf, expField_packSign sg h, fracField_packSign sg h]
  simp only [infBits, Bool.and_eq_true, beq_iff_eq]
  omega

theorem isFinite_packSign (sg : Bool) {bits : Nat} (h : bits < 2 ^ 31) :
    isFinite (packSign sg bits) = decide (bits < infBits) := by
  rw [Bool.eq_iff_iff, decide_eq_true_iff, isFinite, expField_packSign sg h]
  simp only [infBits, bne_iff_ne]
  omega

theorem infBits_lt : infBits < 2 ^ 31 := by decide

/-! ### The nearest natural number -/

theorem nearestEven_mul (k : Nat) {d : Nat} (hd : 0 < d) : nearestEven (k * d) d = k := by
  simp [nearestEven, hd]

/-- The result is within half a step, and even where it is half a step away. -/
theorem nearestEven_spec (n : Nat) {d : Nat} (hd : 0 < d) :
    2 * ((nearestEven n d * d : Nat) - n : Int).natAbs ≤ d ∧
    (2 * ((nearestEven n d * d : Nat) - n : Int).natAbs = d → nearestEven n d % 2 = 0) := by
  have hn : n / d * d + n % d = n := Nat.div_add_mod' n d
  have hr : n % d < d := Nat.mod_lt n hd
  have hup : (n / d + 1) * d = n / d * d + d := Nat.succ_mul _ _
  unfold nearestEven
  split_ifs with hlow hhigh
  · omega
  · rw [hup]
    omega
  · obtain heven | hodd := Nat.mod_two_eq_zero_or_one (n / d)
    · rw [heven, Nat.add_zero]
      omega
    · rw [hodd, hup]
      omega

/-- Two different multiples of `d` are a step apart. -/
theorem mul_add_le_of_lt {j k : Nat} (d : Nat) (h : j < k) : j * d + d ≤ k * d :=
  Nat.succ_mul j d ▸ Nat.mul_le_mul_right d h

/-- No multiple is nearer, and where another is as near the result is even. -/
theorem nearestEven_nearest (n k : Nat) {d : Nat} (hd : 0 < d) :
    ((nearestEven n d * d : Nat) - n : Int).natAbs ≤ ((k * d : Nat) - n : Int).natAbs ∧
    (((nearestEven n d * d : Nat) - n : Int).natAbs = ((k * d : Nat) - n : Int).natAbs →
      k ≠ nearestEven n d → nearestEven n d % 2 = 0) := by
  obtain ⟨hhalf, heven⟩ := nearestEven_spec n hd
  obtain hlt | rfl | hgt := Nat.lt_trichotomy k (nearestEven n d)
  · have := mul_add_le_of_lt d hlt
    exact ⟨by omega, fun _ _ => heven (by omega)⟩
  · exact ⟨le_rfl, fun _ hne => absurd rfl hne⟩
  · have := mul_add_le_of_lt d hgt
    exact ⟨by omega, fun _ _ => heven (by omega)⟩

/-- An even number is reached from half a step below it on. -/
theorem le_nearestEven_iff {n k d : Nat} (hd : 0 < d) (hk : k % 2 = 0) :
    k ≤ nearestEven n d ↔ 2 * (k * d) ≤ 2 * n + d := by
  obtain ⟨hhalf, heven⟩ := nearestEven_spec n hd
  constructor
  · intro h
    have := Nat.mul_le_mul_right d h
    omega
  · intro h
    by_contra hlt
    have hstep := mul_add_le_of_lt d (not_le.mp hlt)
    have htie := heven (by omega)
    have hstep' := mul_add_le_of_lt d (show nearestEven n d + 1 < k by omega)
    rw [Nat.succ_mul] at hstep'
    omega

theorem nearestEven_le {n d k : Nat} (hlt : n < k * d) : nearestEven n d ≤ k := by
  have hdiv : n / d < k := Nat.div_lt_of_lt_mul (by rwa [Nat.mul_comm])
  unfold nearestEven
  split_ifs
  · omega
  · omega
  · omega

/-! ### The grid -/

/-- The quotient on its grid has at most 24 bits, and has 24 where the grid is not the finest. -/
theorem gridExp_spec (n : Nat) {d : Nat} (hd : 0 < d) :
    n < 2 ^ 24 * (d * 2 ^ gridExp n d) ∧
    (gridExp n d = 0 ∨ 2 ^ 23 * (d * 2 ^ gridExp n d) ≤ n) := by
  have hscale : ∀ k, 2 ^ k * (d * 2 ^ gridExp n d) = 2 ^ (k + gridExp n d) * d := fun k => by ring
  rw [hscale, hscale, ← Nat.div_lt_iff_lt_mul hd, ← Nat.le_div_iff_mul_le hd]
  have hlog : gridExp n d = Nat.log2 (n / d) - 23 := rfl
  refine ⟨Nat.lt_of_lt_of_le Nat.lt_log2_self (Nat.pow_le_pow_right (by decide) (by omega)), ?_⟩
  obtain hzero | hpos := Nat.eq_zero_or_pos (gridExp n d)
  · exact .inl hzero
  · have hne : n / d ≠ 0 := fun h => by simp [hlog, h] at hpos
    right
    rw [show 23 + gridExp n d = Nat.log2 (n / d) by omega]
    exact Nat.log2_self_le hne

/-- Only one grid exponent meets that. -/
theorem gridExp_eq_of_bounds {n d g : Nat} (hd : 0 < d) (hlt : n < 2 ^ 24 * (d * 2 ^ g))
    (hle : g = 0 ∨ 2 ^ 23 * (d * 2 ^ g) ≤ n) : gridExp n d = g := by
  have hscale : ∀ k, 2 ^ k * (d * 2 ^ g) = 2 ^ (k + g) * d := fun k => by ring
  rw [hscale, ← Nat.div_lt_iff_lt_mul hd] at hlt
  rw [hscale, ← Nat.le_div_iff_mul_le hd] at hle
  unfold gridExp
  obtain rfl | hle := hle
  · obtain hz | hne := Nat.eq_zero_or_pos (n / d)
    · simp [hz]
    · have := (Nat.log2_lt hne.ne').mpr hlt
      omega
  · have hne : n / d ≠ 0 := (Nat.lt_of_lt_of_le (Nat.two_pow_pos _) hle).ne'
    have := (Nat.log2_lt hne).mpr hlt
    have := (Nat.le_log2 hne).mpr hle
    omega

/-- The significand of the rounded magnitude: `n / d` on its grid, to the nearest. -/
def roundSig (n d : Nat) : Nat := nearestEven n (d * 2 ^ gridExp n d)

theorem roundBits_eq (n d : Nat) : roundBits n d = gridExp n d * 2 ^ 23 + roundSig n d := rfl

theorem grid_pos (n : Nat) {d : Nat} (hd : 0 < d) : 0 < d * 2 ^ gridExp n d :=
  Nat.mul_pos hd (Nat.two_pow_pos _)

theorem onGrid_roundSig (n : Nat) {d : Nat} (hd : 0 < d) :
    OnGrid (gridExp n d) (roundSig n d) := by
  obtain ⟨hlt, hle⟩ := gridExp_spec n hd
  exact ⟨nearestEven_le hlt, hle.imp_right fun hle =>
    (le_nearestEven_iff (grid_pos n hd) (by decide)).mpr (by omega)⟩

/-! ### Rounding to bits -/

/-- Rounding a magnitude that is on its grid is exact. -/
theorem roundBits_onGrid {g q d : Nat} (hd : 0 < d) (h : OnGrid g q) (hq : q < 2 ^ 24) :
    roundBits (q * 2 ^ g * d) d = g * 2 ^ 23 + q := by
  have hscale : q * 2 ^ g * d = q * (d * 2 ^ g) := by ring
  have hgrid : 0 < d * 2 ^ g := Nat.mul_pos hd (Nat.two_pow_pos _)
  have hexp : gridExp (q * (d * 2 ^ g)) d = g :=
    gridExp_eq_of_bounds hd (Nat.mul_lt_mul_of_pos_right hq hgrid)
      (h.2.imp_right fun hle => Nat.mul_le_mul_right _ hle)
  rw [roundBits_eq, roundSig, hscale, hexp, nearestEven_mul q hgrid]

/-- The rounded bits reach those of the infinity from `2^128 - 2^103` on (`40_numerics.md` R88 (c)). -/
theorem infBits_le_roundBits_iff (n : Nat) {d : Nat} (hd : 0 < d) :
    infBits ≤ roundBits n d ↔ 2 ^ 252 * (2 ^ 25 - 1) * d ≤ n := by
  obtain ⟨hlt, hle⟩ := gridExp_spec n hd
  obtain ⟨hq, hg⟩ := onGrid_roundSig n hd
  have htop := le_nearestEven_iff (n := n) (k := 2 ^ 24) (grid_pos n hd) (by decide)
  rw [← roundSig] at htop
  rw [roundBits_eq, infBits]
  generalize roundSig n d = q at *
  generalize gridExp n d = g at *
  obtain hlow | rfl | hhigh : g ≤ 252 ∨ g = 253 ∨ 254 ≤ g := by omega
  · have hpow : d * 2 ^ g ≤ d * 2 ^ 252 :=
      Nat.mul_le_mul_left d (Nat.pow_le_pow_right (by decide) hlow)
    omega
  · omega
  · have hpow : d * 2 ^ 254 ≤ d * 2 ^ g :=
      Nat.mul_le_mul_left d (Nat.pow_le_pow_right (by decide) hhigh)
    omega

/-- The overflow rule in terms of the library's minimum. -/
theorem round32_eq_min (sg : Bool) (n d : Nat) :
    round32 sg n d = packSign sg (min (roundBits n d) infBits) := rfl

theorem min_roundBits_lt (n d : Nat) : min (roundBits n d) infBits < 2 ^ 31 :=
  (Nat.min_le_right _ _).trans_lt infBits_lt

@[simp] theorem round32_zero (sg : Bool) (d : Nat) : round32 sg 0 d = zeroOf sg := by
  have hbits : roundBits 0 d = 0 := by simp [roundBits, gridExp, nearestEven]
  rw [round32_eq_min, hbits, zeroOf, min_eq_left (Nat.zero_le _)]

theorem isInf_round32_iff (sg : Bool) (n : Nat) {d : Nat} (hd : 0 < d) :
    isInf (round32 sg n d) = true ↔ 2 ^ 252 * (2 ^ 25 - 1) * d ≤ n := by
  rw [round32_eq_min, isInf_packSign sg (min_roundBits_lt n d), decide_eq_true_iff,
    ← infBits_le_roundBits_iff n hd]
  exact min_eq_right_iff

theorem signBit_round32 (sg : Bool) (n d : Nat) : signBit (round32 sg n d) = sg := by
  rw [round32_eq_min, signBit_packSign sg (min_roundBits_lt n d)]

@[simp] theorem isNaN_round32 (sg : Bool) (n d : Nat) : isNaN (round32 sg n d) = false := by
  rw [round32_eq_min, isNaN_packSign sg (min_roundBits_lt n d)]
  exact decide_eq_false (Nat.not_lt.mpr (Nat.min_le_right _ _))

/-- A result that is no infinity has the rounded bits. -/
theorem round32_of_not_isInf {sg : Bool} {n d : Nat} (h : isInf (round32 sg n d) = false) :
    roundBits n d < infBits ∧ round32 sg n d = packSign sg (roundBits n d) := by
  rw [round32_eq_min, isInf_packSign sg (min_roundBits_lt n d), decide_eq_false_iff_not] at h
  have hlt : roundBits n d < infBits := not_le.mp fun hle => h (min_eq_right hle)
  exact ⟨hlt, by rw [round32_eq_min, min_eq_left hlt.le]⟩

/-- Rounding the magnitude of a finite datum gives that datum back. -/
theorem round32_magnitude {v : Word} {d : Nat} (hd : 0 < d) (h : isFinite v = true) :
    round32 (signBit v) (magnitude v * d) d = v := by
  obtain ⟨g, q, hgrid, hq, hb, hv⟩ := exists_onGrid v
  generalize signBit v = sg at hv
  subst hv
  rw [isFinite_packSign sg hb, decide_eq_true_iff] at h
  rw [magnitude_packSign sg hgrid hb, round32_eq_min, roundBits_onGrid hd hgrid hq,
    min_eq_left h.le]

/-! ### No datum is nearer -/

/-- A datum is a multiple of the grid `2^g`, or lies below the 24-bit significands on it. -/
theorem magnitude_multiple_or_below (v : Word) (g : Nat) :
    (∃ k, magnitude v = k * 2 ^ g) ∨ (g ≠ 0 ∧ magnitude v < 2 ^ 23 * 2 ^ g) := by
  obtain ⟨e, q, hgrid, hq, hb, hv⟩ := exists_onGrid v
  rw [hv, magnitude_packSign _ hgrid hb]
  obtain hle | hlt := le_or_gt g e
  · exact .inl ⟨q * 2 ^ (e - g), by rw [Nat.mul_assoc, ← Nat.pow_add, Nat.sub_add_cancel hle]⟩
  · right
    refine ⟨by omega, ?_⟩
    calc
      q * 2 ^ e < 2 ^ 24 * 2 ^ e := Nat.mul_lt_mul_of_pos_right hq (Nat.two_pow_pos e)
      _ = 2 ^ 23 * 2 ^ (e + 1) := by ring
      _ ≤ 2 ^ 23 * 2 ^ g := Nat.mul_le_mul_left _ (Nat.pow_le_pow_right (by decide) hlt)

/-- Of all data none is nearer to `n / d` than the rounded magnitude, and where another is as near its
significand is even. -/
theorem roundSig_nearest_datum (n : Nat) {d : Nat} (hd : 0 < d) (v : Word) :
    ((roundSig n d * 2 ^ gridExp n d * d : Nat) - n : Int).natAbs ≤
      ((magnitude v * d : Nat) - n : Int).natAbs ∧
    (((roundSig n d * 2 ^ gridExp n d * d : Nat) - n : Int).natAbs =
        ((magnitude v * d : Nat) - n : Int).natAbs →
      magnitude v ≠ roundSig n d * 2 ^ gridExp n d → roundSig n d % 2 = 0) := by
  obtain ⟨-, hle⟩ := gridExp_spec n hd
  have nearest := fun k => nearestEven_nearest n k (grid_pos n hd)
  rw [← roundSig] at nearest
  generalize roundSig n d = q at *
  generalize gridExp n d = g at *
  have hscale : ∀ k, k * 2 ^ g * d = k * (d * 2 ^ g) := fun k => by ring
  rw [hscale]
  obtain ⟨k, hk⟩ | ⟨hg, hbelow⟩ := magnitude_multiple_or_below v g
  · rw [hk, hscale]
    exact (nearest k).imp_right fun heven heq hne => heven heq fun h => hne (by rw [h])
  · have hdist := (nearest (2 ^ 23)).1
    have hlow := hle.resolve_left hg
    have hstrict := Nat.mul_lt_mul_of_pos_right hbelow hd
    rw [hscale] at hstrict
    omega

theorem magnitude_round32 {sg : Bool} {n d : Nat} (hd : 0 < d)
    (h : isInf (round32 sg n d) = false) :
    magnitude (round32 sg n d) = roundSig n d * 2 ^ gridExp n d := by
  obtain ⟨hlt, hround⟩ := round32_of_not_isInf h
  rw [hround, roundBits_eq]
  exact magnitude_packSign sg (onGrid_roundSig n hd) (hlt.trans infBits_lt)

/-- The last bit of the fraction is that of the significand. -/
theorem fracField_round32_mod_two {sg : Bool} {n d : Nat} (h : isInf (round32 sg n d) = false) :
    fracField (round32 sg n d) % 2 = roundSig n d % 2 := by
  obtain ⟨hlt, hround⟩ := round32_of_not_isInf h
  rw [hround, fracField_packSign sg (hlt.trans infBits_lt), roundBits_eq]
  omega

theorem isFinite_round32 {sg : Bool} {n d : Nat} (h : isInf (round32 sg n d) = false) :
    isFinite (round32 sg n d) = true := by
  obtain ⟨hlt, hround⟩ := round32_of_not_isInf h
  rw [hround, isFinite_packSign sg (hlt.trans infBits_lt)]
  exact decide_eq_true hlt

/-- Settles O48: the result is the nearest multiple of the grid of the quotient, and every datum is a
multiple of that grid or below the 24-bit significands on it. -/
theorem roundingIsToNearestEven : Obligations.RoundingIsToNearestEven := by
  intro sg n d hd
  refine ⟨signBit_round32 sg n d, isInf_round32_iff sg n hd, fun h => ⟨isFinite_round32 h, ?_⟩⟩
  intro v _
  rw [← Nat.cast_mul, ← Nat.cast_mul, magnitude_round32 hd h, fracField_round32_mod_two h]
  exact roundSig_nearest_datum n hd v

end Sys2Proof.Machine

/-! ## The operations on binary32

What the four operations and the sine unit answer by the class of their operands, and the angular step
that is made of them (`40_numerics.md` R89 to R93, R98; `43_oscillator_mixer.md` R143, R165). -/

namespace Sys2Proof.Machine

/-! ### Classes -/

theorem isFinite_eq_false_iff {v : Word} : isFinite v = false ↔ isNaN v = true ∨ isInf v = true := by
  simp only [isFinite, isNaN, isInf, bne_eq_false_iff_eq, Bool.and_eq_true, beq_iff_eq, bne_iff_ne]
  tauto

theorem isNaN_of_isFinite {v : Word} (h : isFinite v = true) : isNaN v = false := by
  simp_all [isFinite, isNaN]

theorem isInf_of_isFinite {v : Word} (h : isFinite v = true) : isInf v = false := by
  simp_all [isFinite, isInf]

theorem isNaN_of_isInf {v : Word} (h : isInf v = true) : isNaN v = false := by
  simp_all [isInf, isNaN]

theorem isZero_of_isInf {v : Word} (h : isInf v = true) : isZero v = false := by
  simp_all [isInf, isZero]

theorem isFinite_of_isZero {v : Word} (h : isZero v = true) : isFinite v = true := by
  simp_all [isFinite, isZero]

theorem isZero_iff_magnitude (v : Word) : isZero v = true ↔ magnitude v = 0 := by
  simp only [isZero, magnitude, Bool.and_eq_true, beq_iff_eq]
  split_ifs with hexp
  · simp [hexp]
  · simp [hexp]

/-- The two infinities are told apart by their sign. -/
theorem eq_infOf_of_isInf {v : Word} (h : isInf v = true) : v = infOf (signBit v) := by
  obtain ⟨g, q, -, -, hb, hv⟩ := exists_onGrid v
  rw [hv, isInf_packSign _ hb, decide_eq_true_iff] at h
  rw [infOf, ← h]
  exact hv

/-- The two zeros are told apart by their sign. -/
theorem eq_zeroOf_of_isZero {v : Word} (h : isZero v = true) : v = zeroOf (signBit v) := by
  have hround := round32_magnitude (d := 1) Nat.one_pos (isFinite_of_isZero h)
  rw [(isZero_iff_magnitude v).mp h] at hround
  exact hround.symm

@[simp] theorem isNaN_infOf (sg : Bool) : isNaN (infOf sg) = false := by cases sg <;> decide
@[simp] theorem isInf_infOf (sg : Bool) : isInf (infOf sg) = true := by cases sg <;> decide
@[simp] theorem isFinite_infOf (sg : Bool) : isFinite (infOf sg) = false := by cases sg <;> decide
@[simp] theorem isNaN_zeroOf (sg : Bool) : isNaN (zeroOf sg) = false := by cases sg <;> decide
@[simp] theorem isNaN_qnan : isNaN qnan = true := by decide
@[simp] theorem isFinite_qnan : isFinite qnan = false := by decide

/-! ### Negation -/

@[simp] theorem expField_fneg (v : Word) : expField (fneg v) = expField v := by
  simp [expField, fneg, BitVec.extractLsb'_xor]

@[simp] theorem fracField_fneg (v : Word) : fracField (fneg v) = fracField v := by
  simp [fracField, fneg, BitVec.extractLsb'_xor]

@[simp] theorem signBit_fneg (v : Word) : signBit (fneg v) = !signBit v := by
  have hmsb : (0x80000000 : Word).msb = true := by decide
  rw [signBit, fneg, BitVec.msb_xor, hmsb, Bool.xor_true, signBit]

@[simp] theorem isNaN_fneg (v : Word) : isNaN (fneg v) = isNaN v := by simp [isNaN]
@[simp] theorem isInf_fneg (v : Word) : isInf (fneg v) = isInf v := by simp [isInf]
@[simp] theorem isZero_fneg (v : Word) : isZero (fneg v) = isZero v := by simp [isZero]
@[simp] theorem magnitude_fneg (v : Word) : magnitude (fneg v) = magnitude v := by simp [magnitude]

@[simp] theorem value_fneg (v : Word) : value (fneg v) = -value v := by
  simp only [value, signBit_fneg, magnitude_fneg]
  cases signBit v <;> simp

/-! ### NaN operands and invalid cases -/

theorem fadd_of_nan {a b : Word} (h : isNaN a = true ∨ isNaN b = true) : fadd a b = qnan :=
  if_pos ((Bool.or_eq_true _ _).mpr h)

theorem fsub_of_nan {a b : Word} (h : isNaN a = true ∨ isNaN b = true) : fsub a b = qnan :=
  if_pos ((Bool.or_eq_true _ _).mpr h)

theorem fmul_of_nan {a b : Word} (h : isNaN a = true ∨ isNaN b = true) : fmul a b = qnan :=
  if_pos ((Bool.or_eq_true _ _).mpr h)

theorem fdiv_of_nan {a b : Word} (h : isNaN a = true ∨ isNaN b = true) : fdiv a b = qnan :=
  if_pos ((Bool.or_eq_true _ _).mpr h)

/-- Subtraction is addition of the negation, for a NaN as for any other operand: both give the canonical
NaN. -/
theorem fsub_eq_fadd_fneg (a b : Word) : fsub a b = fadd a (fneg b) := by
  by_cases h : isNaN a = true ∨ isNaN b = true
  · rw [fsub_of_nan h, fadd_of_nan (by rwa [isNaN_fneg])]
  · exact if_neg (by rwa [Bool.or_eq_true])

theorem fadd_opposite_infinities {a b : Word} (ha : isInf a = true) (hb : isInf b = true)
    (hs : signBit a ≠ signBit b) : fadd a b = qnan := by
  simp [fadd, ha, hb, hs]

theorem fmul_zero_infinity {a b : Word}
    (h : (isZero a = true ∧ isInf b = true) ∨ (isInf a = true ∧ isZero b = true)) :
    fmul a b = qnan := by
  obtain ⟨ha, hb⟩ | ⟨ha, hb⟩ := h
  · simp [fmul, ha, hb]
  · simp [fmul, ha, hb]

theorem fdiv_infinities {a b : Word} (ha : isInf a = true) (hb : isInf b = true) :
    fdiv a b = qnan := by
  simp [fdiv, ha, hb]

theorem fdiv_zeros {a b : Word} (ha : isZero a = true) (hb : isZero b = true) :
    fdiv a b = qnan := by
  simp [fdiv, ha, hb]

theorem sin32_of_not_finite {x : Word} (h : isFinite x = false) : sin32 x = qnan := by
  simp [sin32, h]

/-! ### No other NaN

An operation answers the canonical NaN, an infinity, a zero or a rounded magnitude. -/

theorem fadd_eq_qnan_of_isNaN {a b : Word} (h : isNaN (fadd a b) = true) : fadd a b = qnan := by
  revert h
  unfold fadd
  split_ifs with _ hinf _ ha hb
  · simp
  · simp only [Bool.and_eq_true] at hinf
    simp [isNaN_of_isInf hinf.1]
  · simp
  · simp [isNaN_of_isInf ha]
  · simp [isNaN_of_isInf hb]
  · simp
  · simp
  · simp

theorem fsub_eq_qnan_of_isNaN {a b : Word} (h : isNaN (fsub a b) = true) : fsub a b = qnan := by
  rw [fsub_eq_fadd_fneg] at h ⊢
  exact fadd_eq_qnan_of_isNaN h

theorem fmul_eq_qnan_of_isNaN {a b : Word} (h : isNaN (fmul a b) = true) : fmul a b = qnan := by
  revert h
  unfold fmul
  split_ifs <;> simp

theorem fdiv_eq_qnan_of_isNaN {a b : Word} (h : isNaN (fdiv a b) = true) : fdiv a b = qnan := by
  revert h
  unfold fdiv
  split_ifs <;> simp

/-! ### The sine unit

For a finite argument the result is held to magnitude 1.0, so it is finite. -/

theorem atMostOne_iff (v : Word) : atMostOne v = true ↔ v.toNat % 2 ^ 31 ≤ 0x3F800000 := by
  simp [atMostOne, BitVec.extractLsb'_toNat]

theorem atMostOne_packSign (sg : Bool) {bits : Nat} (h : bits < 2 ^ 31) :
    atMostOne (packSign sg bits) = true ↔ bits ≤ 0x3F800000 := by
  have hbits : (packSign sg bits).toNat % 2 ^ 31 = bits := by
    rw [packSign_toNat sg h]
    cases sg <;> simp <;> omega
  rw [atMostOne_iff, hbits]

theorem atMostOne_heldToOne (v : Word) : atMostOne (heldToOne v) = true := by
  unfold heldToOne
  split_ifs with h
  · exact h
  · exact (atMostOne_packSign _ (by decide)).mpr le_rfl

theorem atMostOne_of_isZero {v : Word} (h : isZero v = true) : atMostOne v = true := by
  rw [eq_zeroOf_of_isZero h]
  exact (atMostOne_packSign _ (by decide)).mpr (by decide)

/-- The bound of S5. -/
theorem atMostOne_sin32 {x : Word} (h : isFinite x = true) : atMostOne (sin32 x) = true := by
  unfold sin32
  split_ifs with hfin hzero
  · simp [h] at hfin
  · exact atMostOne_of_isZero hzero
  · exact atMostOne_heldToOne _

theorem isFinite_of_atMostOne {v : Word} (h : atMostOne v = true) : isFinite v = true := by
  obtain ⟨g, q, -, -, hb, hv⟩ := exists_onGrid v
  rw [hv, atMostOne_packSign _ hb] at h
  rw [hv, isFinite_packSign _ hb, decide_eq_true_iff, infBits]
  omega

theorem sin32_eq_qnan_of_isNaN {x : Word} (h : isNaN (sin32 x) = true) : sin32 x = qnan := by
  cases hx : isFinite x with
  | false => exact sin32_of_not_finite hx
  | true =>
    have hfin := isFinite_of_atMostOne (atMostOne_sin32 hx)
    cases h.symm.trans (isNaN_of_isFinite hfin)

/-- Settles O47: a case of each operation at a time. -/
theorem naNResultsAreCanonical : Obligations.NaNResultsAreCanonical := by
  intro a b
  refine ⟨fun h => ⟨fadd_of_nan h, fsub_of_nan h, fmul_of_nan h, fdiv_of_nan h⟩,
    fun ha hb => ⟨fadd_opposite_infinities ha hb, fun hs => ?_, fdiv_infinities ha hb⟩,
    fmul_zero_infinity, fdiv_zeros, fun h => sin32_of_not_finite (isFinite_eq_false_iff.mpr h),
    fadd_eq_qnan_of_isNaN, fsub_eq_qnan_of_isNaN, fmul_eq_qnan_of_isNaN, fdiv_eq_qnan_of_isNaN,
    sin32_eq_qnan_of_isNaN⟩
  rw [fsub_eq_fadd_fneg]
  exact fadd_opposite_infinities ha (by rwa [isInf_fneg]) (by simp [hs])

/-! ### Addition and subtraction -/

theorem fadd_comm (a b : Word) : fadd a b = fadd b a := by
  by_cases hinf : isInf a = true ∧ isInf b = true
  · obtain ⟨ha, hb⟩ := hinf
    by_cases hs : signBit a = signBit b
    · have heq : a = b := by rw [eq_infOf_of_isInf ha, eq_infOf_of_isInf hb, hs]
      rw [heq]
    · rw [fadd_opposite_infinities ha hb hs, fadd_opposite_infinities hb ha (Ne.symm hs)]
  · have hab : (isInf a && isInf b) = false := by simpa using hinf
    have hba : (isInf b && isInf a) = false := by rwa [Bool.and_comm]
    simp only [fadd, hab, hba, Bool.or_comm (isNaN b), Bool.and_comm (isZero b),
      Bool.and_comm (signBit b), Int.add_comm (value b)]
    cases ha : isInf a
    · simp
    · have hb : isInf b = false := by simpa [ha] using hinf
      simp [hb]

/-- The sum of a finite datum and its negation is `+0`, two zeros included (`40_numerics.md` R90 (c),
(d)). -/
theorem fsub_self {x : Word} (h : isFinite x = true) : fsub x x = 0x00000000 := by
  have hzero : zeroOf false = 0x00000000 := by decide
  simp [fsub, fadd, isNaN_of_isFinite h, isInf_of_isFinite h, hzero]

/-- Settles O51: the special cases evaluate. -/
theorem subtractionLaws : Obligations.SubtractionLaws :=
  ⟨fun _ _ h => fsub_of_nan h, fun a b _ _ => fsub_eq_fadd_fneg a b, fun _ h => fsub_self h,
    by decide, by decide, by decide⟩

/-! ### Multiplication -/

theorem fmul_comm (a b : Word) : fmul a b = fmul b a := by
  simp only [fmul, Bool.or_comm (isNaN b), Bool.or_comm (isInf b), Bool.or_comm (isZero b),
    Bool.xor_comm (signBit b), Nat.mul_comm (magnitude b), Bool.and_comm (isZero b),
    Bool.and_comm (isInf b), Bool.or_comm (isZero a && isInf b)]

/-- Settles O49, from the two laws. -/
theorem addAndMulCommute : Obligations.AddAndMulCommute := fun a b => ⟨fadd_comm a b, fmul_comm a b⟩

/-- The product of finite data is the exact one rounded once, a zero operand included. -/
theorem fmul_of_finite {a b : Word} (ha : isFinite a = true) (hb : isFinite b = true) :
    fmul a b = round32 (signBit a ^^ signBit b) (magnitude a * magnitude b) (2 ^ 149) := by
  simp only [fmul, isNaN_of_isFinite ha, isNaN_of_isFinite hb, isInf_of_isFinite ha,
    isInf_of_isFinite hb, Bool.or_false, Bool.and_false, Bool.false_and, Bool.false_eq_true, if_false]
  split_ifs with hzero
  · have hprod : magnitude a * magnitude b = 0 := by
      simpa [isZero_iff_magnitude] using hzero
    rw [hprod, round32_zero]
  · rfl

theorem fmul_of_infinity {a b : Word} (ha : isInf a = true) (hb : isNaN b = false)
    (hz : isZero b = false) : fmul a b = infOf (signBit a ^^ signBit b) := by
  simp [fmul, ha, hb, hz, isNaN_of_isInf ha, isZero_of_isInf ha]

/-- A product whose exact value is a finite datum is that datum. -/
theorem fmul_eq_of_exact {a b v : Word} (ha : isFinite a = true) (hb : isFinite b = true)
    (hv : isFinite v = true) (hs : signBit v = (signBit a ^^ signBit b))
    (hm : magnitude v * 2 ^ 149 = magnitude a * magnitude b) : fmul a b = v := by
  rw [fmul_of_finite ha hb, ← hs, ← hm]
  exact round32_magnitude (Nat.two_pow_pos _) hv

theorem magnitude_one32 : magnitude one32 = 2 ^ 149 := by decide

theorem magnitude_two32 : magnitude two32 = 2 * 2 ^ 149 := by decide

theorem fmul_one32 {x : Word} (h : isNaN x = false) : fmul x one32 = x := by
  have hone : signBit one32 = false := by decide
  cases hx : isFinite x with
  | true => exact fmul_eq_of_exact hx (by decide) hx (by simp [hone]) (by rw [magnitude_one32])
  | false =>
    have hinf : isInf x = true := (isFinite_eq_false_iff.mp hx).resolve_left (by simp [h])
    rw [fmul_of_infinity hinf (by decide) (by decide), hone, Bool.xor_false]
    exact (eq_infOf_of_isInf hinf).symm

/-- Settles O50: the exact product of a finite datum and 1.0 is that datum. -/
theorem mulByOneIsExact : Obligations.MulByOneIsExact :=
  fun _ h => ⟨fmul_one32 h, (fmul_comm _ _).trans (fmul_one32 h)⟩

/-! ### Doubling -/

/-- A datum of exponent below the highest finite one has a double (`40_numerics.md` R92). -/
theorem exists_double {v : Word} (h : expField v < 254) : ∃ w, isFinite w = true ∧
    signBit w = signBit v ∧ magnitude w = 2 * magnitude v := by
  obtain ⟨g, q, hgrid, hq, hb, hv⟩ := exists_onGrid v
  generalize signBit v = sg at *
  subst hv
  rw [expField_packSign sg hb] at h
  rw [magnitude_packSign sg hgrid hb]
  have double : ∀ g' q', OnGrid g' q' → g' * 2 ^ 23 + q' < infBits → q' * 2 ^ g' = 2 * (q * 2 ^ g) →
      ∃ w, isFinite w = true ∧ signBit w = sg ∧ magnitude w = 2 * (q * 2 ^ g) := by
    intro g' q' hgrid' hlt heq
    have hb' := hlt.trans infBits_lt
    exact ⟨packSign sg (g' * 2 ^ 23 + q'),
      (isFinite_packSign sg hb').trans (decide_eq_true hlt), signBit_packSign sg hb',
      (magnitude_packSign sg hgrid' hb').trans heq⟩
  rw [infBits] at double
  obtain hlow | hhigh := Nat.lt_or_ge q (2 ^ 23)
  · obtain rfl : g = 0 := hgrid.2.resolve_right (by omega)
    exact double 0 (2 * q) ⟨by omega, .inl rfl⟩ (by omega) (by ring)
  · rw [Nat.div_lt_iff_lt_mul (by decide)] at h
    exact double (g + 1) q ⟨hgrid.1, .inr hhigh⟩ (by linarith) (by ring)

theorem magnitude_le_of_atMostOne {v : Word} (h : atMostOne v = true) :
    magnitude v ≤ magnitude one32 := by
  obtain ⟨g, q, hgrid, -, hb, hv⟩ := exists_onGrid v
  rw [hv, atMostOne_packSign _ hb] at h
  rw [hv, magnitude_packSign _ hgrid hb, magnitude_one32]
  obtain ⟨hq, hg⟩ := hgrid
  obtain hlow | ⟨rfl, hone⟩ : g ≤ 125 ∨ (g = 126 ∧ q ≤ 2 ^ 23) := by omega
  · calc
      q * 2 ^ g ≤ 2 ^ 24 * 2 ^ 125 :=
        Nat.mul_le_mul hq (Nat.pow_le_pow_right (by decide) hlow)
      _ = 2 ^ 149 := by decide
  · calc
      q * 2 ^ 126 ≤ 2 ^ 23 * 2 ^ 126 := Nat.mul_le_mul_right _ hone
      _ = 2 ^ 149 := by decide

/-- Doubling a datum of magnitude at most 1.0 is exact (`40_numerics.md` R98 (S5)). -/
theorem fmul_two32 {v : Word} (h : atMostOne v = true) : isFinite (fmul two32 v) = true ∧
    signBit (fmul two32 v) = signBit v ∧ magnitude (fmul two32 v) = 2 * magnitude v := by
  have hexp : expField v < 254 := by
    rw [atMostOne_iff] at h
    rw [expField_eq]
    omega
  obtain ⟨w, hw, hs, hm⟩ := exists_double hexp
  have htwo : signBit two32 = false := by decide
  have hexact : fmul two32 v = w := fmul_eq_of_exact (by decide) (isFinite_of_atMostOne h) hw
    (by rw [htwo, Bool.false_xor, hs]) (by rw [hm, magnitude_two32]; ring)
  rw [hexact]
  exact ⟨hw, hs, hm⟩

theorem magnitude_fmul_two32_le {v : Word} (h : atMostOne v = true) :
    magnitude (fmul two32 v) ≤ magnitude two32 := by
  obtain ⟨-, -, hm⟩ := fmul_two32 h
  rw [hm, magnitude_two32, ← magnitude_one32]
  exact Nat.mul_le_mul_left 2 (magnitude_le_of_atMostOne h)

theorem value_fmul_two32 {v : Word} (h : atMostOne v = true) :
    value (fmul two32 v) = 2 * value v := by
  obtain ⟨-, hs, hm⟩ := fmul_two32 h
  rw [value, hs, hm, value]
  split_ifs
  · push_cast
    ring
  · push_cast
    rfl

/-- Settles O52: the results of S2 to S4 are fixed, and the doubling of S5 is exact. -/
theorem sineUnitLaws : Obligations.SineUnitLaws := by
  refine ⟨by decide, by decide, fun x h => sin32_of_not_finite (isFinite_eq_false_iff.mpr h),
    fun x h => ?_⟩
  have hone := atMostOne_sin32 h
  exact ⟨isFinite_of_atMostOne hone, magnitude_le_of_atMostOne hone, (fmul_two32 hone).1,
    value_fmul_two32 hone, magnitude_fmul_two32_le hone⟩

/-! ### The angular step -/

theorem isFinite_fdiv_by_zero (a : Word) {b : Word} (hb : isZero b = true) :
    isFinite (fdiv a b) = false := by
  have hinf := isInf_of_isFinite (isFinite_of_isZero hb)
  simp only [fdiv, hb, hinf, if_true, Bool.false_eq_true, if_false]
  split_ifs <;> simp

theorem isFinite_fdiv_infinity {a : Word} (b : Word) (ha : isInf a = true) :
    isFinite (fdiv a b) = false := by
  simp only [fdiv, ha, if_true]
  split_ifs <;> simp

theorem angularStep_of_not_finite {freq rate : Word}
    (h : isFinite (fdiv (fmul pi32 freq) rate) = false) : angularStep freq rate = qnan := by
  rw [angularStep, sin32_of_not_finite h]
  exact fmul_of_nan (.inr isNaN_qnan)

/-- Settles O53: the argument of the sine is finite, and its doubled sine bounded, or it is not, and
the step is the canonical NaN. -/
theorem angularStepIsBounded : Obligations.AngularStepIsBounded := by
  intro freq rate
  constructor
  · cases hz : isFinite (fdiv (fmul pi32 freq) rate) with
    | false => exact .inl (angularStep_of_not_finite hz)
    | true =>
      have hone := atMostOne_sin32 hz
      exact .inr ⟨(fmul_two32 hone).1, magnitude_fmul_two32_le hone⟩
  · intro h
    apply angularStep_of_not_finite
    obtain hzero | hrate | hfreq | hinf := h
    · exact isFinite_fdiv_by_zero _ hzero
    · rw [fdiv_of_nan (.inr hrate), isFinite_qnan]
    · rw [fmul_of_nan (.inr hfreq), fdiv_of_nan (.inl isNaN_qnan), isFinite_qnan]
    · rw [fmul_comm, fmul_of_infinity hinf (by decide) (by decide)]
      exact isFinite_fdiv_infinity rate (isInf_infOf _)

end Sys2Proof.Machine

/-! ## Life cycle

What `CREATE` and `RELEASE` answer on their own port, and the state they leave (`41_lifecycle.md` R111,
R112). -/

namespace Sys2Proof.Machine

theorem exec_create_main (s : State) :
    exec (.create .main) s = .next (s.created.respond .main ResultCode.ok.response) := by
  rw [exec, execCreate]
  exact gate_pass s .main _ (absurd · Bool.false_ne_true) rfl

theorem exec_release_live {s : State} (h : s.live = true) :
    exec (.release .main) s = .next (s.destroyed.respond .main ResultCode.ok.response) := by
  rw [exec, execRelease]
  exact gate_pass s .main _ (fun _ => h) rfl

theorem exec_release_not_live {s : State} (h : s.live = false) :
    exec (.release .main) s = .next (s.respond .main ResultCode.notLive.response) := by
  rw [exec, execRelease]
  exact gate_not_live s .main true _ h

theorem ok_response : ResultCode.ok.response = ⟨0, 0, 0, 0, 0, 0⟩ := rfl

/-- Settles O9: the instance is the one `State.created` makes, and the answer touches only its port. -/
theorem createInitialisesTheInstance : Obligations.CreateInitialisesTheInstance := by
  intro s
  refine ⟨_, exec_create_main s, ?_⟩
  simp [SameMemory, ok_response]

/-- Settles O10: `RELEASE` is performed with an instance and turned away without one. -/
theorem releaseEndsTheInstance : Obligations.ReleaseEndsTheInstance := by
  intro s
  constructor
  · intro live
    refine ⟨_, exec_release_live live, ?_⟩
    simp [SameMemory, ok_response]
  · intro notLive
    exact ⟨_, exec_release_not_live notLive, answersOnly_respond s .main _⟩

end Sys2Proof.Machine

/-! ## The parameter store

What `SET`, `GET` and `DESC` answer, and that a cell keeps what was written to it over every quiet run
(`42_parameter_store.md` R124 to R128). -/

namespace Sys2Proof.Machine

/-! ### Index checks, refused -/

theorem idxValid_eq_false_iff (w : Word) : idxValid w = false ↔ w.toInt < 0 ∨ w.toInt > 2 := by
  rw [← Bool.not_eq_true, idxValid_iff_toInt]
  omega

theorem descValid_eq_false_iff (w : Word) : descValid w = false ↔ w.toInt < 0 ∨ w.toInt ≥ 2 := by
  rw [← Bool.not_eq_true, descValid_iff_toInt]
  omega

/-! ### Commands turned away -/

/-- Without an instance every operation but `CREATE` answers `NotLive` on its own port, and nothing else
is done (`41_lifecycle.md` R113). -/
theorem exec_of_not_live {i : Instr} {s : State} (hs : served i = true) (hc : i ≠ .create .main)
    (notLive : s.live = false) :
    exec i s = .next (s.respond i.port ResultCode.notLive.response) := by
  cases i with
  | create p => exact absurd (congrArg Instr.create (eq_of_beq hs)) hc
  | release p | proc p _ _ _ _ _ _ | set p _ _ | get p _ | desc p _ | getbuf p _ _ _ =>
    obtain rfl := eq_of_beq hs
    simp only [exec, execRelease, execProc, execSet, execGet, execDesc, execGetbuf]
    exact gate_not_live s _ _ _ notLive
  | reserved00 p | reserved04To07 p _ | reserved08To0F p _ | reserved14To17 p _
  | reserved18To1F p _ | reserved20To3F p _ | reserved40To7F p _ | reserved80ToFF p _
  | reservedRsvNonzero p _ _ => cases hs

/-- With an instance an operation with a bad index answers `InvalidIndex` on its own port, and nothing
else is done (`60_exceptions.md` R179). -/
theorem exec_of_badIndex {i : Instr} {s : State} (hs : served i = true) (live : s.live = true)
    (bad : badIndex i) :
    exec i s = .next (s.respond i.port ResultCode.invalidIndex.response) := by
  cases i with
  | set p index _ | get p index =>
    obtain rfl := eq_of_beq hs
    rw [exec]
    simp only [execSet, execGet, (idxValid_eq_false_iff index).mpr bad]
    exact gate_bad_index s _ _ fun _ => live
  | desc p index =>
    obtain rfl := eq_of_beq hs
    rw [exec, execDesc, (descValid_eq_false_iff index).mpr bad]
    exact gate_bad_index s _ _ fun _ => live
  | create p | release p | proc p _ _ _ _ _ _ | getbuf p _ _ _ | reserved00 p
  | reserved04To07 p _ | reserved08To0F p _ | reserved14To17 p _ | reserved18To1F p _
  | reserved20To3F p _ | reserved40To7F p _ | reserved80ToFF p _ | reservedRsvNonzero p _ _ =>
    exact bad.elim

/-! ### Commands performed -/

section Performed

variable {s : State} {index : Word} (live : s.live = true)
include live

theorem exec_set_valid (v : Word) (valid : idxValid index = true) : exec (.set .ctrl index v) s =
    .next ((s.writeP (cellAt index) v).respond .ctrl ResultCode.ok.response) := by
  rw [exec, execSet]
  exact gate_pass s .ctrl _ (fun _ => live) valid

theorem exec_get_valid (valid : idxValid index = true) : exec (.get .ctrl index) s =
    .next (s.respond .ctrl ⟨ResultCode.ok.word, s.readP (cellAt index), 0, 0, 0, 0⟩) := by
  rw [exec, execGet]
  exact gate_pass s .ctrl _ (fun _ => live) valid

theorem exec_desc_valid (valid : descValid index = true) : exec (.desc .ctrl index) s =
    .next (s.respond .ctrl ⟨ResultCode.ok.word, (rowAt s.rom index).min, (rowAt s.rom index).max,
      (rowAt s.rom index).dflt, (rowAt s.rom index).scale, (rowAt s.rom index).exponent⟩) := by
  rw [exec, execDesc]
  exact gate_pass s .ctrl _ (fun _ => live) valid

end Performed

/-- Settles O12: `SET` writes the cell of an accepted index, and is turned away otherwise. -/
theorem setWritesOneCell : Obligations.SetWritesOneCell := by
  intro s v
  constructor
  · intro live
    refine ⟨exec_set_valid live v (by decide), exec_set_valid live v (by decide),
      exec_set_valid live v (by decide), fun index bad => ?_⟩
    exact ⟨_, exec_of_badIndex rfl live bad, answersOnly_respond s .ctrl _⟩
  · intro notLive index
    exact ⟨_, exec_of_not_live rfl nofun notLive, answersOnly_respond s .ctrl _⟩

/-- Settles O13: `GET` answers and does nothing else, whatever the index and the instance. -/
theorem getAnswersTheCell : Obligations.GetAnswersTheCell := by
  intro s
  constructor
  · intro live
    have answers : ∀ index, idxValid index = true → ∃ t, exec (.get .ctrl index) s = .next t ∧
        AnswersOnly s t .ctrl ⟨0, s.readP (cellAt index), 0, 0, 0, 0⟩ := fun index valid =>
      ⟨_, exec_get_valid live valid, answersOnly_respond s .ctrl _⟩
    refine ⟨answers 0 (by decide), answers 1 (by decide), answers 2 (by decide), fun index bad => ?_⟩
    exact ⟨_, exec_of_badIndex rfl live bad, answersOnly_respond s .ctrl _⟩
  · intro notLive index
    exact ⟨_, exec_of_not_live rfl nofun notLive, answersOnly_respond s .ctrl _⟩

/-- Settles O14: `DESC` answers the row of an accepted index, whose words the invariant gives. -/
theorem descAnswersTheDescriptor : Obligations.DescAnswersTheDescriptor := by
  intro s hrom
  obtain ⟨hfrequency, hmix⟩ := hrom
  constructor
  · intro live
    have answers : ∀ index d, descValid index = true → rowAt s.rom index = d →
        ∃ t, exec (.desc .ctrl index) s = .next t ∧
          AnswersOnly s t .ctrl ⟨0, d.min, d.max, d.dflt, d.scale, d.exponent⟩ := by
      rintro index _ valid rfl
      exact ⟨_, exec_desc_valid live valid, answersOnly_respond s .ctrl _⟩
    refine ⟨answers 0 _ (by decide) hfrequency, answers 1 _ (by decide) hmix, fun index bad => ?_⟩
    exact ⟨_, exec_of_badIndex rfl live bad, answersOnly_respond s .ctrl _⟩
  · intro notLive index
    exact ⟨_, exec_of_not_live rfl nofun notLive, answersOnly_respond s .ctrl _⟩

/-! ### Quiet runs

Where `Move.live` and `Move.cells` allow a change, a quiet step is none of the moves they name. -/

@[simp] theorem popTodo_live (s : State) (p : Port) : (s.popTodo p).live = s.live :=
  setPort_live s p _

theorem SameButTurn.live {s u : State} (h : SameButTurn s u) : u.live = s.live := by rw [h]

theorem SameButTurn.readP {s u : State} (h : SameButTurn s u) (k : ParamCell) :
    u.readP k = s.readP k := by
  rw [h]
  cases k <;> rfl

/-- The read of an accepted index is as before when the cell of that index is. -/
theorem readP_cellAt_congr {s t : State} {index : Word} (hindex : index = 0 ∨ index = 1 ∨ index = 2)
    (h0 : index = 0 → t.p0 = s.p0) (h1 : index = 1 → t.p1 = s.p1) (h2 : index = 2 → t.p2 = s.p2) :
    t.readP (cellAt index) = s.readP (cellAt index) := by
  obtain rfl | rfl | rfl := hindex
  · exact h0 rfl
  · exact h1 rfl
  · exact h2 rfl

/-- The moves that begin or end an instance. -/
theorem Move.live {a : Agent} {u t : State} (h : Move a u t) :
    t.live = u.live ∨
    (a = .main ∧ ∃ cw, u.main.cmd = some cw ∧
      (decode .main cw = .create .main ∨ decode .main cw = .release .main)) ∨
    ∃ p, a = .host p ∧ (u.port p).todo.head? = some .reset := by
  cases h with
  | create held _ decoded => exact .inr (.inl ⟨rfl, _, held, .inl decoded⟩)
  | release held _ decoded _ => exact .inr (.inl ⟨rfl, _, held, .inr decoded⟩)
  | reset next => exact .inr (.inr ⟨_, rfl, by rw [next]; rfl⟩)
  | issue _ _ _ => exact .inl (by simp)
  | store _ _ => exact .inl (by simp)
  | answer _ _ _ _ => exact .inl (by simp)
  | start _ _ _ _ => exact .inl rfl
  | set _ _ _ _ => exact .inl (by simp)
  | done _ _ => exact .inl rfl
  | advance _ _ _ => exact .inl rfl
  | sample _ _ _ _ _ _ => exact .inl rfl

section Quiet

variable {index : Word} {a : Agent} {u t : State} (quiet : Quiet index a u)
include quiet

theorem Quiet.not_lifecycle : ¬ (a = .main ∧ ∃ cw, u.main.cmd = some cw ∧
    (decode .main cw = .create .main ∨ decode .main cw = .release .main)) := by
  rintro ⟨ha, cw, held, decoded⟩
  obtain ⟨-, hlifecycle, -⟩ := quiet
  obtain ⟨hcreate, hrelease⟩ := hlifecycle cw ha held
  exact decoded.elim hcreate hrelease

theorem Quiet.not_reset : ¬ ∃ p, a = .host p ∧ (u.port p).todo.head? = some .reset := by
  rintro ⟨p, ha, next⟩
  obtain ⟨hreset, -, -⟩ := quiet
  exact hreset p ha next

theorem Quiet.keeps_live (h : Move a u t) : t.live = u.live :=
  h.live.resolve_right fun hor => hor.elim quiet.not_lifecycle quiet.not_reset

theorem Quiet.keeps_cell (hindex : index = 0 ∨ index = 1 ∨ index = 2) (h : Move a u t) :
    t.readP (cellAt index) = u.readP (cellAt index) := by
  obtain ⟨h0, h1, h2⟩ | hlifecycle | ⟨ha, cw, j, v, held, decoded, h0, h1, h2⟩ | hreset := h.cells
  · exact readP_cellAt_congr hindex (fun _ => h0) (fun _ => h1) (fun _ => h2)
  · exact absurd hlifecycle quiet.not_lifecycle
  · obtain ⟨-, -, hset⟩ := quiet
    have hj : j ≠ index := by
      rintro rfl
      exact hset cw ha held v decoded
    exact readP_cellAt_congr hindex (fun he => h0 (he ▸ hj)) (fun he => h1 (he ▸ hj))
      (fun he => h2 (he ▸ hj))
  · exact absurd hreset quiet.not_reset

end Quiet

/-- A quiet run keeps the instance and the cell, by induction on its steps. -/
theorem QuietRun.keeps {index : Word} {s u : State} (hindex : index = 0 ∨ index = 1 ∨ index = 2)
    (run : QuietRun index s u) :
    u.live = s.live ∧ u.readP (cellAt index) = s.readP (cellAt index) := by
  induction run with
  | refl => exact ⟨rfl, rfl⟩
  | tail _ chosen quiet moved ih =>
    obtain ⟨hlive, hcell⟩ := ih
    obtain ⟨enabled, turn⟩ := choose_enabled chosen
    have move := agentStep_move ((enabled_of_sameButTurn turn _).trans enabled) moved
    exact ⟨(quiet.keeps_live move).trans (turn.live.trans hlive),
      (quiet.keeps_cell hindex move).trans ((turn.readP _).trans hcell)⟩

/-- Settles O15: `SET` leaves the word in the cell, the quiet run keeps it and the instance, and `GET`
answers the cell. -/
theorem getReturnsWhatSetWrote : Obligations.GetReturnsWhatSetWrote := by
  intro s t u index v hindex live hset run
  have valid : idxValid index = true := (indexChecksAcceptExactly index).1.mpr hindex
  cases (exec_set_valid live v valid).symm.trans hset
  obtain ⟨hlive, hcell⟩ := run.keeps hindex
  have ulive : u.live = true := hlive.trans (by simp [live])
  have hv : u.readP (cellAt index) = v := hcell.trans (by simp)
  refine ⟨_, exec_get_valid ulive valid, ?_⟩
  rw [hv]
  rfl

end Sys2Proof.Machine

/-! ## The phase and the mix

The recurrence at angular step `+0` and at a NaN, and the mix at its two ends
(`43_oscillator_mixer.md` R161 to R165). -/

namespace Sys2Proof.Machine

/-! ### Sums and products with a zero -/

theorem value_of_isZero {z : Word} (h : isZero z = true) : value z = 0 := by
  simp [value, (isZero_iff_magnitude z).mp h]

theorem natAbs_value (v : Word) : (value v).natAbs = magnitude v := by
  rw [value]
  split_ifs <;> simp

theorem value_ne_zero {v : Word} (h : isZero v = false) : value v ≠ 0 := by
  rw [Ne, ← Int.natAbs_eq_zero, natAbs_value, ← isZero_iff_magnitude, h]
  exact Bool.false_ne_true

/-- A value that is not zero has the sign of its datum. -/
theorem decide_value_neg {v : Word} (h : isZero v = false) : decide (value v < 0) = signBit v := by
  have hne := value_ne_zero h
  rw [value] at hne ⊢
  cases hs : signBit v with
  | false => simp
  | true =>
    simp only [hs, if_true] at hne ⊢
    exact decide_eq_true (by omega)

theorem fmul_zero_of_isFinite {x z : Word} (hx : isFinite x = true) (hz : isZero z = true) :
    fmul x z = zeroOf (signBit x ^^ signBit z) := by
  rw [fmul_of_finite hx (isFinite_of_isZero hz), (isZero_iff_magnitude z).mp hz, Nat.mul_zero,
    round32_zero]

theorem fdiv_zero {z y : Word} (hz : isZero z = true) (hy : isFinite y = true)
    (hne : isZero y = false) : fdiv z y = zeroOf (signBit z ^^ signBit y) := by
  have hzfin := isFinite_of_isZero hz
  simp [fdiv, hz, hne, isNaN_of_isFinite, isInf_of_isFinite, hzfin, hy]

theorem fadd_zeros {x z : Word} (hx : isZero x = true) (hz : isZero z = true) :
    fadd x z = zeroOf (signBit x && signBit z) := by
  have hxfin := isFinite_of_isZero hx
  have hzfin := isFinite_of_isZero hz
  simp [fadd, hx, hz, isNaN_of_isFinite, isInf_of_isFinite, hxfin, hzfin]

/-- A zero added to a datum that is none leaves it, an infinity included (`40_numerics.md` R90). -/
theorem fadd_zero_of_not_isZero {x z : Word} (hn : isNaN x = false) (hx : isZero x = false)
    (hz : isZero z = true) : fadd x z = x := by
  have hzfin := isFinite_of_isZero hz
  have hzNaN := isNaN_of_isFinite hzfin
  have hzInf := isInf_of_isFinite hzfin
  cases hfin : isFinite x with
  | true =>
    simpa [fadd, hn, hx, hzNaN, hzInf, isInf_of_isFinite hfin, value_of_isZero hz, value_ne_zero hx,
      decide_value_neg hx, natAbs_value] using round32_magnitude Nat.one_pos hfin
  | false =>
    have hinf : isInf x = true := (isFinite_eq_false_iff.mp hfin).resolve_left (by simp [hn])
    simp [fadd, hn, hzNaN, hinf, hzInf]

@[simp] theorem isZero_zeroOf (sg : Bool) : isZero (zeroOf sg) = true := by cases sg <;> decide
@[simp] theorem signBit_zeroOf (sg : Bool) : signBit (zeroOf sg) = sg := by cases sg <;> decide
@[simp] theorem fneg_zeroOf (sg : Bool) : fneg (zeroOf sg) = zeroOf !sg := by cases sg <;> decide

theorem isZero_posZero : isZero 0x00000000 = true := by decide
theorem signBit_posZero : signBit 0x00000000 = false := by decide
theorem zeroOf_false : zeroOf false = 0x00000000 := by decide
theorem zeroOf_true : zeroOf true = 0x80000000 := by decide

/-- A zero added to a finite datum leaves it, but that `-0` needs a `-0`. -/
theorem fadd_zero {x z : Word} (hx : isFinite x = true) (hz : isZero z = true)
    (hsign : x ≠ 0x80000000 ∨ signBit z = true) : fadd x z = x := by
  cases hzero : isZero x with
  | false => exact fadd_zero_of_not_isZero (isNaN_of_isFinite hx) hzero hz
  | true =>
    have hx0 := eq_zeroOf_of_isZero hzero
    rw [fadd_zeros hzero hz]
    cases hs : signBit x with
    | false => rw [Bool.false_and, hx0, hs]
    | true =>
      rw [hs, zeroOf_true] at hx0
      rw [hsign.resolve_left (absurd hx0), Bool.and_true, hx0, zeroOf_true]

/-! ### The recurrence -/

theorem angularStep_zero {rate : Word} (hfin : isFinite rate = true) (hne : isZero rate = false)
    (hpos : signBit rate = false) : angularStep 0x00000000 rate = 0x00000000 := by
  have hprod : fmul pi32 0x00000000 = 0x00000000 := by decide
  have hquot : fdiv 0x00000000 rate = 0x00000000 := by
    rw [fdiv_zero isZero_posZero hfin hne, hpos, signBit_posZero]
    exact zeroOf_false
  rw [angularStep, hprod, hquot]
  decide

/-- An angular step of zero freezes a pair without a `-0`. -/
theorem advance_zero {s c : Word} (hs : isFinite s = true) (hs0 : s ≠ 0x80000000)
    (hc : isFinite c = true) (hc0 : c ≠ 0x80000000) : advance s c 0x00000000 = (s, c) := by
  have hsum : fadd s (fmul c 0x00000000) = s := by
    rw [fmul_zero_of_isFinite hc isZero_posZero]
    exact fadd_zero hs (isZero_zeroOf _) (.inl hs0)
  have hdiff : fsub c (fmul s 0x00000000) = c := by
    rw [fmul_zero_of_isFinite hs isZero_posZero, fsub_eq_fadd_fneg, fneg_zeroOf]
    exact fadd_zero hc (isZero_zeroOf _) (.inl hc0)
  simp only [advance, hsum, hdiff]

/-- Settles O54: the products with the step are zeros, and a zero leaves a component that is no `-0`. -/
theorem zeroFrequencyFreezesThePhase : Obligations.ZeroFrequencyFreezesThePhase :=
  ⟨fun _ hfin hne hpos => angularStep_zero hfin hne hpos,
    advance_zero (by decide) (by decide) (by decide) (by decide),
    fun _ _ hs hs0 hc hc0 => advance_zero hs hs0 hc hc0⟩

theorem isNaN_fmul_of_nan {a b : Word} (h : isNaN a = true ∨ isNaN b = true) :
    isNaN (fmul a b) = true := by rw [fmul_of_nan h, isNaN_qnan]

theorem advance_qnan (s c : Word) : advance s c qnan = (qnan, qnan) := by
  have hs : fadd s (fmul c qnan) = qnan :=
    fadd_of_nan (.inr (isNaN_fmul_of_nan (.inr isNaN_qnan)))
  have hc : fsub c (fmul qnan qnan) = qnan :=
    fsub_of_nan (.inr (isNaN_fmul_of_nan (.inr isNaN_qnan)))
  simp only [advance, hs, hc]

/-- A NaN sine component makes every next one NaN, and with it the cosine component. -/
theorem advance_nan_phase (c w : Word) : advance qnan c w = (qnan, qnan) := by
  have hs : fadd qnan (fmul c w) = qnan := fadd_of_nan (.inl isNaN_qnan)
  have hc : fsub c (fmul qnan w) = qnan :=
    fsub_of_nan (.inr (isNaN_fmul_of_nan (.inl isNaN_qnan)))
  simp only [advance, hs, hc]

theorem phaseAfter_qnan (w : Word) (k : Nat) : phaseAfter w k (qnan, qnan) = (qnan, qnan) := by
  induction k with
  | zero => rfl
  | succ k ih => rw [phaseAfter, advance_nan_phase, ih]

theorem mixSample_of_nan_phase {s : Word} (x a m : Word) (h : isNaN s = true) :
    mixSample x a m s = qnan :=
  fadd_of_nan (.inr (isNaN_fmul_of_nan (.inr h)))

/-- Settles O57: every operation with a NaN operand gives the canonical NaN. -/
theorem naNPhaseIsPermanent : Obligations.NaNPhaseIsPermanent :=
  ⟨advance_qnan, phaseAfter_qnan, fun x a m => mixSample_of_nan_phase x a m isNaN_qnan⟩

/-! ### The mix at its ends -/

theorem mixSample_of_not_finite_sample {x a m s : Word} (h : isFinite x = false)
    (hzero : isZero a = true ∨ isZero m = true) : mixSample x a m s = qnan := by
  have hprod : ∀ z, isZero z = true → fmul x z = qnan := fun z hz =>
    (isFinite_eq_false_iff.mp h).elim (fun hn => fmul_of_nan (.inl hn))
      fun hi => fmul_zero_infinity (.inr ⟨hi, hz⟩)
  obtain ha | hm := hzero
  · exact fadd_of_nan (.inl (by rw [hprod a ha, isNaN_qnan]))
  · exact fadd_of_nan (.inr (isNaN_fmul_of_nan (.inl (by rw [hprod m hm, isNaN_qnan]))))

/-- With `mix = 0` a zero of the combined sign is added to the sample. -/
theorem mixSample_zero {x s : Word} (hx : isFinite x = true) (hs : isFinite s = true) :
    mixSample x one32 0x00000000 s = fadd x (zeroOf (signBit x ^^ signBit s)) := by
  rw [mixSample, fmul_one32 (isNaN_of_isFinite hx), fmul_zero_of_isFinite hx isZero_posZero,
    signBit_posZero, Bool.xor_false, fmul_comm, fmul_zero_of_isFinite hs (isZero_zeroOf _),
    signBit_zeroOf, Bool.xor_comm]

theorem mixSample_zero_of_not_finite {x s : Word} (h : isFinite x = false ∨ isFinite s = false) :
    mixSample x one32 0x00000000 s = qnan := by
  cases hx : isFinite x with
  | false => exact mixSample_of_not_finite_sample hx (.inr isZero_posZero)
  | true =>
    have hs : isFinite s = false := h.resolve_left (by simp [hx])
    obtain hn | hi := isFinite_eq_false_iff.mp hs
    · exact mixSample_of_nan_phase x _ _ hn
    · rw [mixSample, fmul_zero_of_isFinite hx isZero_posZero,
        fmul_zero_infinity (.inl ⟨isZero_zeroOf _, hi⟩)]
      exact fadd_of_nan (.inr isNaN_qnan)

/-- Settles O55: the sample is kept by 1.0, and only `-0` is changed by the zero added to it. -/
theorem zeroMixIsTheIdentity : Obligations.ZeroMixIsTheIdentity := by
  have hone : fsub 0x3F800000 0x00000000 = one32 := by decide
  have hneg : signBit 0x80000000 = true := by decide
  intro x s
  rw [hone]
  refine ⟨fun hx hs hsign => ?_, fun hs hneg' => ?_, mixSample_zero_of_not_finite⟩
  · rw [mixSample_zero hx hs]
    refine fadd_zero hx (isZero_zeroOf _) ?_
    by_cases hx0 : x = 0x80000000
    · right
      rw [hx0, hneg, hsign.resolve_left (absurd hx0), signBit_zeroOf, Bool.xor_false]
    · exact .inl hx0
  · rw [mixSample_zero (by decide) hs, fadd_zeros (by decide) (isZero_zeroOf _), hneg, hneg']
    exact zeroOf_false

/-- With `mix = 1` a zero of the sample's sign is added to the product. -/
theorem mixSample_one {x s : Word} (hx : isFinite x = true) :
    mixSample x 0x00000000 one32 s = fadd (fmul x s) (zeroOf (signBit x)) := by
  rw [mixSample, fmul_one32 (isNaN_of_isFinite hx), fmul_zero_of_isFinite hx isZero_posZero,
    signBit_posZero, Bool.xor_false, fadd_comm]

/-- Settles O56: the zero of the dry term shows only where the product is a zero too. -/
theorem fullMixIsTheProduct : Obligations.FullMixIsTheProduct := by
  have hzero : fsub 0x3F800000 0x3F800000 = 0x00000000 := by decide
  intro x s
  rw [hzero]
  refine ⟨fun hx hs hne => ?_, fun hx hs hprod => ?_, fun hinf => ?_⟩
  · have hNaN : isNaN (fmul x s) = false := by rw [fmul_of_finite hx hs, isNaN_round32]
    exact (mixSample_one hx).trans (fadd_zero_of_not_isZero hNaN hne (isZero_zeroOf _))
  · refine (mixSample_one hx).trans ?_
    rw [fadd_zeros hprod (isZero_zeroOf _), signBit_zeroOf]
    cases signBit x <;> cases signBit (fmul x s) <;> simp [zeroOf_false, zeroOf_true]
  · have hfin : isFinite x = false := isFinite_eq_false_iff.mpr (.inr hinf)
    exact mixSample_of_not_finite_sample hfin (.inl isZero_posZero)

end Sys2Proof.Machine

/-! ## A whole `PROC`

The start step, the three engine steps on their own, and the run of the engine from the start step to
the done step (`43_oscillator_mixer.md` R141 to R155). -/

namespace Sys2Proof.Machine

/-! ### Single steps -/

theorem exec_proc_live {s : State} (ib ob len ic oc rate : Word) (live : s.live = true) :
    exec (.proc .main ib ob len ic oc rate) s =
      .next (s.setEng (Eng.start ib ob len oc rate s.p0 s.p1)) := by
  rw [exec, execProc]
  exact gate_pass s .main _ (fun _ => live) rfl

/-- Settles O23: `PROC` passes its tests with an instance and is turned away without one. -/
theorem procStartLatches : Obligations.ProcStartLatches := fun s ib ob len ic oc rate =>
  ⟨fun live => exec_proc_live ib ob len ic oc rate live,
    fun notLive => ⟨_, exec_of_not_live rfl (by simp) notLive, answersOnly_respond s .main _⟩⟩

/-- Settles O24: the fields the done arm leaves. -/
theorem doneStepAnswersOk : Obligations.DoneStepAnswersOk := by
  intro s last
  refine ⟨_, engineStep_done last, ?_⟩
  simp [SameMemory, ok_response]

/-- Settles O25: the advance arm, with the recurrence written out. -/
theorem advanceStepTurnsThePhase : Obligations.AdvanceStepTurnsThePhase :=
  fun _ more frameEnd => engineStep_advance more frameEnd

/-! ### Runs of the engine -/

theorem engineRun_succ_eq_next {k : Nat} {s v : State} : engineRun (k + 1) s = .next v ↔
    ∃ t, engineStep s = .next t ∧ engineRun k t = .next v := by
  rw [engineRun]
  cases engineStep s <;> simp

theorem engineRun_one {s v : State} : engineRun 1 s = .next v ↔ engineStep s = .next v :=
  engineRun_succ_eq_next.trans (by simp [engineRun])

/-- A run is cut in two at any of its steps. -/
theorem engineRun_add_eq_next {j k : Nat} {s v : State} : engineRun (j + k) s = .next v ↔
    ∃ t, engineRun j s = .next t ∧ engineRun k t = .next v := by
  induction j generalizing s with
  | zero => simp [engineRun]
  | succ j ih =>
    simp only [Nat.succ_add, engineRun_succ_eq_next, ih]
    exact ⟨fun ⟨t, ht, u, hu, hv⟩ => ⟨u, ⟨t, ht, hu⟩, hv⟩,
      fun ⟨u, ⟨t, ht, hu⟩, hv⟩ => ⟨t, ht, u, hu, hv⟩⟩

/-- A run to the last frame, and the done step after it. -/
theorem engineRun_done {k : Nat} {s t : State} (hrun : engineRun k s = .next t)
    (last : t.eng.n = t.eng.len) :
    engineRun (k + 1) s = .next (t.stopEng.respond .main ResultCode.ok.response) :=
  engineRun_add_eq_next.mpr ⟨t, hrun, engineRun_one.mpr (engineStep_done last)⟩

/-- While more than the done step is left the last frame has not ended. -/
theorem n_ne_len_of_stepsLeft {e : Eng} (h : 1 < e.stepsLeft) : e.n ≠ e.len := fun last =>
  h.ne' (stepsLeft_of_last last)

/-- A `PROC` is in flight, and the engine context is that of the command `MAIN` holds. -/
structure InFlight (s : State) : Prop where
  coherent : EngineCoherent s
  run : s.eng.run = true

/-- Before the done step the engine changes its two counters, the phase and the memory. -/
def SameCall (s t : State) : Prop :=
  t = { s with
    phaseS := t.phaseS, phaseC := t.phaseC, mem := t.mem
    eng := { s.eng with n := t.eng.n, i := t.eng.i } }

theorem SameCall.refl (s : State) : SameCall s s := rfl

theorem SameCall.trans {s t u : State} (hst : SameCall s t) (htu : SameCall t u) : SameCall s u := by
  rw [SameCall, htu, hst]

section SameCall

variable {s t : State} (h : SameCall s t)
include h

theorem SameCall.live : t.live = s.live := by rw [h]
theorem SameCall.p0 : t.p0 = s.p0 := by rw [h]
theorem SameCall.p1 : t.p1 = s.p1 := by rw [h]
theorem SameCall.p2 : t.p2 = s.p2 := by rw [h]
theorem SameCall.rom : t.rom = s.rom := by rw [h]
theorem SameCall.main : t.main = s.main := by rw [h]
theorem SameCall.ctrl : t.ctrl = s.ctrl := by rw [h]
theorem SameCall.ib : t.eng.ib = s.eng.ib := by rw [h]
theorem SameCall.ob : t.eng.ob = s.eng.ob := by rw [h]
theorem SameCall.len : t.eng.len = s.eng.len := by rw [h]
theorem SameCall.oc : t.eng.oc = s.eng.oc := by rw [h]
theorem SameCall.w : t.eng.w = s.eng.w := by rw [h]
theorem SameCall.m : t.eng.m = s.eng.m := by rw [h]
theorem SameCall.a : t.eng.a = s.eng.a := by rw [h]

end SameCall

theorem CallCovered.sameCall {s t : State} (hs : CallCovered s) (h : SameCall s t) : CallCovered t :=
  hs.congr (congrArg PortState.cmd h.main)

/-- The two arms of the engine step before the last frame has ended (`43_oscillator_mixer.md` R145). -/
theorem engineStep_cases_of_more {s t : State} (more : s.eng.n ≠ s.eng.len)
    (h : engineStep s = .next t) :
    (s.eng.i = s.eng.oc ∧
      t = (s.setPhase (advance s.phaseS s.phaseC s.eng.w)).setEng s.eng.nextFrame) ∨
    (s.eng.i ≠ s.eng.oc ∧ ∃ x, s.mem.readWord s.eng.inAddr = some x ∧
      t = (s.setMem (s.mem.writeWord s.eng.outAddr (s.outSample x))).setEng s.eng.nextChannel) := by
  obtain ⟨last, -⟩ | ⟨-, frameEnd, ht⟩ | ⟨-, inFrame, x, -, hx, -, ht⟩ := engineStep_cases h
  · exact absurd last more
  · exact .inl ⟨frameEnd, ht⟩
  · exact .inr ⟨inFrame, x, hx, ht⟩

theorem engineStep_sameCall {s t : State} (more : s.eng.n ≠ s.eng.len)
    (h : engineStep s = .next t) : SameCall s t := by
  obtain ⟨-, rfl⟩ | ⟨-, x, -, rfl⟩ := engineStep_cases_of_more more h
  · rfl
  · rfl

section InFlight

variable {s t : State} (hs : InFlight s)
include hs

theorem InFlight.n_le : s.eng.n.toNat ≤ s.eng.len.toNat := by
  obtain ⟨_, -, -, -, -, -, -, hn, -, -⟩ := hs.coherent hs.run
  exact hn

theorem InFlight.i_le : s.eng.i.toNat ≤ s.eng.oc.toNat := by
  obtain ⟨_, -, -, -, -, -, -, -, hi, -⟩ := hs.coherent hs.run
  exact hi

theorem InFlight.i_eq_zero (last : s.eng.n = s.eng.len) : s.eng.i = 0 := by
  obtain ⟨_, -, -, -, -, -, -, -, -, hzero⟩ := hs.coherent hs.run
  exact hzero last

theorem InFlight.n_lt (more : s.eng.n ≠ s.eng.len) : s.eng.n.toNat < s.eng.len.toNat :=
  lt_of_le_of_ne hs.n_le (mt BitVec.eq_of_toNat_eq more)

theorem InFlight.i_lt (inFrame : s.eng.i ≠ s.eng.oc) : s.eng.i.toNat < s.eng.oc.toNat :=
  lt_of_le_of_ne hs.i_le (mt BitVec.eq_of_toNat_eq inFrame)

/-- The done step is the one step left exactly after the last frame. -/
theorem InFlight.stepsLeft_eq_one : s.eng.stepsLeft = 1 ↔ s.eng.n = s.eng.len := by
  refine ⟨fun h => ?_, stepsLeft_of_last⟩
  by_contra more
  have := hs.i_le
  rw [stepsLeft_of_more (hs.n_lt more) hs.i_le] at h
  omega

/-- A step before the done step leaves the `PROC` in flight, one step nearer to its end. -/
theorem InFlight.after_step (more : s.eng.n ≠ s.eng.len) (h : engineStep s = .next t) :
    InFlight t ∧ t.eng.stepsLeft + 1 = s.eng.stepsLeft := by
  obtain ⟨run, hleft⟩ | ⟨-, hone⟩ := engineStepCountsDown s t hs.coherent hs.run h
  · exact ⟨⟨(engineStep_move hs.run h).keeps_engineCoherent hs.coherent, run⟩, hleft⟩
  · exact absurd (hs.stepsLeft_eq_one.mp hone) more

/-- What a run before the done step leaves. -/
theorem InFlight.after_run {k : Nat} (hk : k < s.eng.stepsLeft) (h : engineRun k s = .next t) :
    InFlight t ∧ t.eng.stepsLeft + k = s.eng.stepsLeft ∧ SameCall s t := by
  induction k generalizing s with
  | zero =>
    cases h
    exact ⟨hs, rfl, SameCall.refl _⟩
  | succ k ih =>
    obtain ⟨u, hu, hrun⟩ := engineRun_succ_eq_next.mp h
    have more := n_ne_len_of_stepsLeft (e := s.eng) (by omega)
    obtain ⟨hfu, hleft⟩ := hs.after_step more hu
    obtain ⟨hft, hleft', hcall⟩ := ih hfu (by omega) hrun
    exact ⟨hft, by omega, (engineStep_sameCall more hu).trans hcall⟩

/-- What holds at the start of a run and lets every step be taken holds up to the done step. -/
theorem InFlight.run_induction {I : State → Prop} (start : I s)
    (work : ∀ t, InFlight t → SameCall s t → t.eng.n ≠ t.eng.len → I t →
      ∃ u, engineStep t = .next u ∧ I u) {k : Nat} (hk : k < s.eng.stepsLeft) :
    ∃ t, engineRun k s = .next t ∧ I t := by
  induction k with
  | zero => exact ⟨s, rfl, start⟩
  | succ k ih =>
    obtain ⟨t, hrun, hI⟩ := ih (Nat.lt_of_succ_lt hk)
    obtain ⟨hft, hleft, hcall⟩ := hs.after_run (Nat.lt_of_succ_lt hk) hrun
    have more := n_ne_len_of_stepsLeft (e := t.eng) (by omega)
    obtain ⟨u, hu, hIu⟩ := work t hft hcall more hI
    exact ⟨u, engineRun_add_eq_next.mpr ⟨t, hrun, engineRun_one.mpr hu⟩, hIu⟩

end InFlight

theorem decode_proc (ib ob len ic oc rate : Word) :
    decode .main ⟨0x00000003, ib, ob, len, ic, oc, rate⟩ = .proc .main ib ob len ic oc rate :=
  decodeEncodeAgree (.proc .main ib ob len ic oc rate) rfl

/-- The start step puts the `PROC` that `MAIN` holds in flight. -/
theorem inFlight_start {s : State} {ib ob len ic oc rate : Word}
    (held : s.main.cmd = some ⟨0x00000003, ib, ob, len, ic, oc, rate⟩) :
    InFlight (s.setEng (Eng.start ib ob len oc rate s.p0 s.p1)) :=
  ⟨engineCoherent_start held (decode_proc ib ob len ic oc rate), rfl⟩

theorem stepsLeft_start (ib ob len oc rate freq mix : Word) :
    (Eng.start ib ob len oc rate freq mix).stepsLeft = len.toNat * (oc.toNat + 1) + 1 := by
  simp [Eng.stepsLeft, Eng.start]

end Sys2Proof.Machine

/-! ## The block a `PROC` computes

What the output buffer and the phase hold at any step before the done step, from what they held at the
start (`43_oscillator_mixer.md` R154). -/

namespace Sys2Proof.Machine

theorem phaseAfter_succ (w : Word) (k : Nat) (sc : Word × Word) :
    phaseAfter w (k + 1) sc = advance (phaseAfter w k sc).1 (phaseAfter w k sc).2 w := by
  induction k generalizing sc with
  | zero => rfl
  | succ k ih => rw [phaseAfter, ih, phaseAfter]

/-- A word reads as before where its four bytes do. -/
theorem readWord_congr {m m' : Memory} {addr : Word}
    (h : ∀ k < 4, m'.readByte (byteAddr addr k) = m.readByte (byteAddr addr k)) :
    m'.readWord addr = m.readWord addr := by
  simp only [Memory.readWord, h 0 (by omega), h 1 (by omega), h 2 (by omega), h 3 (by omega)]

/-- Two words of a region of at most `2^32` lie at different addresses. -/
theorem add_ofNat_ne (base : Word) {j k : Nat} (hj : j < 2 ^ 32) (hk : k < 2 ^ 32) (h : j ≠ k) :
    base + BitVec.ofNat 32 j ≠ base + BitVec.ofNat 32 k := by
  intro heq
  have hnat := congrArg BitVec.toNat (add_left_cancel heq)
  rw [BitVec.toNat_ofNat, BitVec.toNat_ofNat, Nat.mod_eq_of_lt hj, Nat.mod_eq_of_lt hk] at hnat
  exact h hnat

/-- The frame is the quotient of the offset by the number of channels. -/
theorem mul_add_div_of_lt (n : Nat) {oc i : Nat} (hi : i < oc) : (n * oc + i) / oc = n := by
  rw [Nat.mul_comm, Nat.mul_add_div (Nat.zero_lt_of_lt hi), Nat.div_eq_of_lt hi, Nat.add_zero]

/-- In place or with the buffers apart, an input word is no output word but its own. -/
theorem InPlaceOrDisjoint.ne {ib ob : Word} {count : Nat} (h : InPlaceOrDisjoint ib ob count)
    (fits : count ≤ 2 ^ 32) {j k : Nat} (hj : j < count) (hk : k < count) (hne : j ≠ k) :
    ib + BitVec.ofNat 32 j ≠ ob + BitVec.ofNat 32 k := by
  obtain rfl | apart := h
  · exact add_ofNat_ne ib (hj.trans_le fits) (hk.trans_le fits) hne
  · exact apart j hj k hk

/-- How many words the engine has written, one per channel and frame (`20_memory.md` R50). -/
def Eng.wordsDone (e : Eng) : Nat := e.n.toNat * e.oc.toNat + e.i.toNat

theorem inAddr_eq (e : Eng) : e.inAddr = e.ib + BitVec.ofNat 32 e.wordsDone := by
  rw [Eng.inAddr, offset_eq_ofNat, Eng.wordsDone]

theorem outAddr_eq (e : Eng) : e.outAddr = e.ob + BitVec.ofNat 32 e.wordsDone := by
  rw [Eng.outAddr, offset_eq_ofNat, Eng.wordsDone]

theorem wordsDone_nextFrame {e : Eng} (more : e.n.toNat < e.len.toNat) (frameEnd : e.i = e.oc) :
    e.nextFrame.wordsDone = e.wordsDone := by
  have hzero : (0 : Word).toNat = 0 := rfl
  simp only [Eng.wordsDone, nextFrame_n, nextFrame_oc, nextFrame_i, toNat_add_one_of_lt more,
    frameEnd, Nat.succ_mul, hzero, Nat.add_zero]

theorem wordsDone_nextChannel {e : Eng} (inFrame : e.i.toNat < e.oc.toNat) :
    e.nextChannel.wordsDone = e.wordsDone + 1 := by
  simp only [Eng.wordsDone, nextChannel_n, nextChannel_oc, nextChannel_i,
    toNat_add_one_of_lt inFrame, Nat.add_assoc]

/-- The sample the `PROC` started in `s` writes at offset `k` for the input word `x`: the mix with the
phase of its frame (`43_oscillator_mixer.md` R154). -/
def State.blockSample (s : State) (k : Nat) (x : Word) : Word :=
  mixSample x s.eng.a s.eng.m
    (phaseAfter s.eng.w (k / s.eng.oc.toNat) (s.phaseS, s.phaseC)).1

/-- The part of the block done in `t` by the `PROC` started in `s`: the phase of the current frame, the
words written, and no other byte changed. -/
structure BlockSoFar (s t : State) : Prop where
  phase : (t.phaseS, t.phaseC) = phaseAfter s.eng.w t.eng.n.toNat (s.phaseS, s.phaseC)
  written : ∀ k < t.eng.wordsDone, ∀ x, s.mem.readWord (s.eng.ib + BitVec.ofNat 32 k) = some x →
    t.mem.readWord (s.eng.ob + BitVec.ofNat 32 k) = some (s.blockSample k x)
  kept : ∀ b, (∀ k < t.eng.wordsDone, b < byteAddr (s.eng.ob + BitVec.ofNat 32 k) 0 ∨
    byteAddr (s.eng.ob + BitVec.ofNat 32 k) 3 < b) → t.mem.readByte b = s.mem.readByte b

theorem BlockSoFar.start {s : State} (hn : s.eng.n = 0) (hi : s.eng.i = 0) : BlockSoFar s s where
  phase := by rw [hn]; rfl
  written k hk := by simp [Eng.wordsDone, hn, hi] at hk
  kept _ _ := rfl

/-- An address apart from the words written so far reads as at the start. -/
theorem BlockSoFar.readWord_kept {s t : State} (h : BlockSoFar s t) {addr : Word}
    (apart : ∀ k < t.eng.wordsDone, addr ≠ s.eng.ob + BitVec.ofNat 32 k) :
    t.mem.readWord addr = s.mem.readWord addr :=
  readWord_congr fun _ hj => h.kept _ fun k hk => byteAddr_outside (apart k hk) hj

theorem BlockSoFar.nextFrame {s t : State} (h : BlockSoFar s t) (hcall : SameCall s t)
    (more : t.eng.n.toNat < t.eng.len.toNat) (frameEnd : t.eng.i = t.eng.oc) :
    BlockSoFar s
      ((t.setPhase (advance t.phaseS t.phaseC t.eng.w)).setEng t.eng.nextFrame) where
  phase := by
    obtain ⟨hS, hC⟩ := Prod.ext_iff.mp h.phase
    simp only [setEng_phaseS, setEng_phaseC, setPhase_phaseS, setPhase_phaseC, setEng_eng,
      nextFrame_n, toNat_add_one_of_lt more, phaseAfter_succ, hcall.w, ← hS, ← hC]
  written := by
    rw [setEng_eng, wordsDone_nextFrame more frameEnd]
    exact h.written
  kept := by
    rw [setEng_eng, wordsDone_nextFrame more frameEnd]
    exact h.kept

theorem BlockSoFar.nextChannel {s t : State} (h : BlockSoFar s t) (hcall : SameCall s t)
    (fits : t.eng.wordsDone < 2 ^ 32) (inFrame : t.eng.i.toNat < t.eng.oc.toNat) {x : Word}
    (read : s.mem.readWord (s.eng.ib + BitVec.ofNat 32 t.eng.wordsDone) = some x) :
    BlockSoFar s ((t.setMem (t.mem.writeWord t.eng.outAddr (t.outSample x))).setEng
      t.eng.nextChannel) where
  phase := h.phase
  written k hk y hy := by
    rw [setEng_eng, wordsDone_nextChannel inFrame] at hk
    rw [setEng_mem, setMem_mem, outAddr_eq, hcall.ob]
    obtain hlt | rfl := Nat.lt_succ_iff_lt_or_eq.mp hk
    · rw [readWord_writeWord_of_ne _ _ (add_ofNat_ne _ (hlt.trans fits) fits hlt.ne)]
      exact h.written k hlt y hy
    · obtain rfl : x = y := Option.some.inj (read.symm.trans hy)
      have hS : t.phaseS = (phaseAfter s.eng.w t.eng.n.toNat (s.phaseS, s.phaseC)).1 :=
        congrArg Prod.fst h.phase
      have hframe : t.eng.wordsDone / s.eng.oc.toNat = t.eng.n.toNat := by
        rw [hcall.oc] at inFrame
        rw [Eng.wordsDone, hcall.oc, mul_add_div_of_lt _ inFrame]
      rw [readWord_writeWord_self, State.outSample, State.blockSample, hframe, hS, hcall.a, hcall.m]
  kept b hb := by
    rw [setEng_eng, wordsDone_nextChannel inFrame] at hb
    rw [setEng_mem, setMem_mem, outAddr_eq, hcall.ob,
      readByte_writeWord_of_outside _ _ _ (hb _ (Nat.lt_succ_self _))]
    exact h.kept b fun k hk => hb k (Nat.lt_succ_of_lt hk)

/-- While the input is lent and readable and the buffers do not overlap in part, every step before the
done step is taken and does its part of the block. -/
theorem BlockSoFar.step {s t : State} (h : BlockSoFar s t) (hcov : CallCovered s)
    (fits : s.eng.len.toNat * s.eng.oc.toNat ≤ 2 ^ 32)
    (place : InPlaceOrDisjoint s.eng.ib s.eng.ob (s.eng.len.toNat * s.eng.oc.toNat))
    (readable : Readable s.mem s.eng.ib (s.eng.len.toNat * s.eng.oc.toNat))
    (ht : InFlight t) (hcall : SameCall s t) (more : t.eng.n ≠ t.eng.len) :
    ∃ u, engineStep t = .next u ∧ BlockSoFar s u := by
  by_cases hi : t.eng.i = t.eng.oc
  · exact ⟨_, engineStep_advance more hi, h.nextFrame hcall (ht.n_lt more) hi⟩
  · have hoff : t.eng.wordsDone < s.eng.len.toNat * s.eng.oc.toNat := by
      rw [← hcall.len, ← hcall.oc]
      exact ht.coherent.offset_lt ht.run more hi
    obtain ⟨mayRead, mayWrite⟩ :=
      ht.coherent.lent_accesses (hcov.sameCall hcall) ht.run more hi
    obtain ⟨x, hx⟩ := readable _ hoff
    have read : t.mem.readWord t.eng.inAddr = some x := by
      rw [inAddr_eq, hcall.ib, h.readWord_kept fun k hk => ?_, hx]
      exact place.ne fits hoff (hk.trans hoff) hk.ne'
    exact ⟨_, engineStep_sample more hi mayRead read mayWrite,
      h.nextChannel hcall (hoff.trans_le fits) (ht.i_lt hi) hx⟩

/-- A covered `PROC` with readable input, right after its start step, runs to its last frame and has
then done the whole block. -/
theorem BlockSoFar.complete {s : State} (hs : InFlight s) (hcov : CallCovered s)
    (hn : s.eng.n = 0) (hi : s.eng.i = 0) (fits : s.eng.len.toNat * s.eng.oc.toNat ≤ 2 ^ 32)
    (place : InPlaceOrDisjoint s.eng.ib s.eng.ob (s.eng.len.toNat * s.eng.oc.toNat))
    (readable : Readable s.mem s.eng.ib (s.eng.len.toNat * s.eng.oc.toNat)) {k : Nat}
    (hk : s.eng.stepsLeft = k + 1) :
    ∃ t, engineRun k s = .next t ∧ SameCall s t ∧ t.eng.n = t.eng.len ∧
      t.eng.wordsDone = s.eng.len.toNat * s.eng.oc.toNat ∧ BlockSoFar s t := by
  have hlt : k < s.eng.stepsLeft := by omega
  obtain ⟨t, hrun, hblock⟩ := hs.run_induction (BlockSoFar.start hn hi)
    (fun _ ht hcall more h => h.step hcov fits place readable ht hcall more) hlt
  obtain ⟨ht, hleft, hcall⟩ := hs.after_run hlt hrun
  have last : t.eng.n = t.eng.len := ht.stepsLeft_eq_one.mp (by omega)
  refine ⟨t, hrun, hcall, last, ?_, hblock⟩
  simp [Eng.wordsDone, last, ht.i_eq_zero last, hcall.len, hcall.oc]

/-- Settles O33: once the last frame has ended the whole block is done, and the done step leaves it. -/
theorem procComputesTheBlock : Obligations.ProcComputesTheBlock := by
  intro s t ib ob len ic oc rate live fits place readable held covered h
  cases (exec_proc_live ib ob len ic oc rate live).symm.trans h
  have hcov : CallCovered (s.setEng (Eng.start ib ob len oc rate s.p0 s.p1)) := by
    intro cw hcw
    cases held.symm.trans hcw
    exact covered
  obtain ⟨v, hrun, hcall, last, hdone, hblock⟩ := BlockSoFar.complete (inFlight_start held) hcov
    rfl rfl fits place readable (stepsLeft_start ib ob len oc rate s.p0 s.p1)
  rw [← Nat.mul_succ]
  refine ⟨_, engineRun_done hrun last, rfl, ?_, hcall.ctrl, ?_, hcall.p0,
    hcall.p1, hcall.p2, hcall.live, hcall.rom, ?_, ?_⟩
  · simp [hcall.main, ok_response]
  · have hphase := hblock.phase
    rwa [last, hcall.len] at hphase
  · intro n hn i hi x hx
    have hframe : (n * oc.toNat + i) / oc.toNat = n := mul_add_div_of_lt n hi
    have hword := hblock.written _ (hdone ▸ frame_channel_lt hn hi) x hx
    rw [State.blockSample, setEng_eng, Eng.start, hframe] at hword
    exact hword
  · exact fun b hb => hblock.kept b (hdone ▸ hb)

end Sys2Proof.Machine

/-! ## A block in two parts

A shorter call whose frames are among those of a longer one takes the same steps on the same words
(`43_oscillator_mixer.md` R155). -/

namespace Sys2Proof.Machine

/-- The next frame begins one word per channel later. -/
theorem add_succ_mul (base n oc : Word) : base + (n + 1) * oc = base + n * oc + oc := by
  rw [add_mul, one_mul, ← add_assoc]

/-- The `PROC` of `short` stands where that of `long` does: the same words at the same addresses, the
same phase and coefficients, and `rest` frames of `long` after the last one of `short`. -/
structure InStep (rest : Nat) (long short : State) : Prop where
  mem : short.mem = long.mem
  phaseS : short.phaseS = long.phaseS
  phaseC : short.phaseC = long.phaseC
  i : short.eng.i = long.eng.i
  oc : short.eng.oc = long.eng.oc
  w : short.eng.w = long.eng.w
  m : short.eng.m = long.eng.m
  a : short.eng.a = long.eng.a
  input : short.eng.ib + short.eng.n * short.eng.oc = long.eng.ib + long.eng.n * long.eng.oc
  output : short.eng.ob + short.eng.n * short.eng.oc = long.eng.ob + long.eng.n * long.eng.oc
  frames : long.eng.len.toNat = long.eng.n.toNat + (short.eng.len.toNat - short.eng.n.toNat) + rest

section InStep

variable {rest : Nat} {long short : State} (h : InStep rest long short)
include h

theorem InStep.inAddr : short.eng.inAddr = long.eng.inAddr := by
  rw [Eng.inAddr, Eng.inAddr, offset, offset, ← BitVec.add_assoc, ← BitVec.add_assoc, h.input, h.i]

theorem InStep.outAddr : short.eng.outAddr = long.eng.outAddr := by
  rw [Eng.outAddr, Eng.outAddr, offset, offset, ← BitVec.add_assoc, ← BitVec.add_assoc, h.output,
    h.i]

theorem InStep.outSample (x : Word) : short.outSample x = long.outSample x := by
  rw [State.outSample, State.outSample, h.a, h.m, h.phaseS]

theorem InStep.n_lt (hlt : short.eng.n.toNat < short.eng.len.toNat) :
    long.eng.n.toNat < long.eng.len.toNat := by
  have := h.frames
  omega

/-- After the last frame of `short` the frames beyond it are left to `long`. -/
theorem InStep.frames_of_last (last : short.eng.n = short.eng.len) :
    long.eng.len.toNat = long.eng.n.toNat + rest := by
  have hframes := h.frames
  rwa [last, Nat.sub_self] at hframes

theorem InStep.nextFrame (hlt : short.eng.n.toNat < short.eng.len.toNat) : InStep rest
    ((long.setPhase (advance long.phaseS long.phaseC long.eng.w)).setEng long.eng.nextFrame)
    ((short.setPhase (advance short.phaseS short.phaseC short.eng.w)).setEng
      short.eng.nextFrame) where
  mem := h.mem
  phaseS := by simp [h.phaseS, h.phaseC, h.w]
  phaseC := by simp [h.phaseS, h.phaseC, h.w]
  i := rfl
  oc := h.oc
  w := h.w
  m := h.m
  a := h.a
  input := by
    simp only [setEng_eng, nextFrame_ib, nextFrame_n, nextFrame_oc]
    rw [add_succ_mul, add_succ_mul, h.input, h.oc]
  output := by
    simp only [setEng_eng, nextFrame_ob, nextFrame_n, nextFrame_oc]
    rw [add_succ_mul, add_succ_mul, h.output, h.oc]
  frames := by
    have := h.frames
    simp only [setEng_eng, nextFrame_len, nextFrame_n, toNat_add_one_of_lt hlt,
      toNat_add_one_of_lt (h.n_lt hlt)]
    omega

theorem InStep.nextChannel (x : Word) : InStep rest
    ((long.setMem (long.mem.writeWord long.eng.outAddr (long.outSample x))).setEng
      long.eng.nextChannel)
    ((short.setMem (short.mem.writeWord short.eng.outAddr (short.outSample x))).setEng
      short.eng.nextChannel) where
  mem := by simp [h.mem, h.outAddr, h.outSample]
  phaseS := h.phaseS
  phaseC := h.phaseC
  i := by simp [h.i]
  oc := h.oc
  w := h.w
  m := h.m
  a := h.a
  input := h.input
  output := h.output
  frames := h.frames

/-- Before the last frame of a covered `short` has ended, a step of `long` is one of `short` too. -/
theorem InStep.step {long' : State} (hs : InFlight short) (hcov : CallCovered short)
    (more : short.eng.n ≠ short.eng.len) (hstep : engineStep long = .next long') :
    ∃ short', engineStep short = .next short' ∧ InStep rest long' short' := by
  have longMore : long.eng.n ≠ long.eng.len := fun last =>
    (h.n_lt (hs.n_lt more)).ne (congrArg BitVec.toNat last)
  obtain ⟨frameEnd, rfl⟩ | ⟨inFrame, x, hx, rfl⟩ := engineStep_cases_of_more longMore hstep
  · exact ⟨_, engineStep_advance more (by rw [h.i, h.oc, frameEnd]), h.nextFrame (hs.n_lt more)⟩
  · have shortInFrame : short.eng.i ≠ short.eng.oc := by rwa [h.i, h.oc]
    obtain ⟨mayRead, mayWrite⟩ := hs.coherent.lent_accesses hcov hs.run more shortInFrame
    have read : short.mem.readWord short.eng.inAddr = some x := by rwa [h.mem, h.inAddr]
    exact ⟨_, engineStep_sample more shortInFrame mayRead read mayWrite, h.nextChannel x⟩

/-- A run of `long` over the frames left to a covered `short` is one of `short` up to its done step. -/
theorem InStep.run {long' : State} {k : Nat} (hs : InFlight short) (hcov : CallCovered short)
    (hk : short.eng.stepsLeft = k + 1) (hrun : engineRun k long = .next long') :
    ∃ short', engineRun k short = .next short' ∧ InStep rest long' short' ∧ SameCall short short' ∧
      short'.eng.n = short'.eng.len ∧ short'.eng.i = 0 := by
  induction k generalizing long short with
  | zero =>
    cases hrun
    have last := hs.stepsLeft_eq_one.mp hk
    exact ⟨short, rfl, h, SameCall.refl short, last, hs.i_eq_zero last⟩
  | succ k ih =>
    obtain ⟨u, hu, hrun⟩ := engineRun_succ_eq_next.mp hrun
    have more := n_ne_len_of_stepsLeft (e := short.eng) (by omega)
    obtain ⟨v, hv, huv⟩ := h.step hs hcov more hu
    obtain ⟨hfv, hleft⟩ := hs.after_step more hv
    have hcall := engineStep_sameCall more hv
    obtain ⟨short', hrun', hstep, hcall', hend⟩ :=
      ih huv hfv (hcov.sameCall hcall) (by omega) hrun
    exact ⟨short', engineRun_succ_eq_next.mpr ⟨v, hv, hrun'⟩, hstep, hcall.trans hcall', hend⟩

end InStep

/-- With at least as many input as output channels every word read is lent (`20_memory.md` R51). -/
theorem callCovered_of_channels_le {cw : Record} (h : cw.cw5.toNat ≤ cw.cw4.toNat) :
    callCovered cw = true := by
  simp [callCovered, inWords, outWords, Nat.min_eq_right h]

/-- The state right after the start step of a `PROC` placed on `MAIN`. -/
def State.started (s : State) (ib ob len ic oc rate : Word) : State :=
  (s.place .main ⟨0x00000003, ib, ob, len, ic, oc, rate⟩).setEng
    (Eng.start ib ob len oc rate s.p0 s.p1)

section Started

variable {s : State} (ib ob len ic oc rate : Word)

theorem exec_proc_place (live : s.live = true) : exec (.proc .main ib ob len ic oc rate)
    (s.place .main ⟨0x00000003, ib, ob, len, ic, oc, rate⟩) =
      .next (s.started ib ob len ic oc rate) := exec_proc_live ib ob len ic oc rate live

/-- A started call with enough input channels, in step with a longer one, runs to its end. -/
theorem InStep.run_started {long long' : State} {rest : Nat}
    (h : InStep rest long (s.started ib ob len ic oc rate)) (channels : oc.toNat ≤ ic.toNat)
    (hrun : engineRun (len.toNat * (oc.toNat + 1)) long = .next long') :
    ∃ short, engineRun (len.toNat * (oc.toNat + 1)) (s.started ib ob len ic oc rate) = .next short ∧
      InStep rest long' short ∧ SameCall (s.started ib ob len ic oc rate) short ∧
      short.eng.n = short.eng.len ∧ short.eng.i = 0 := by
  refine h.run (inFlight_start rfl) ?_ (stepsLeft_start ib ob len oc rate s.p0 s.p1) hrun
  intro cw hcw
  cases hcw
  exact callCovered_of_channels_le channels

end Started

/-- The first part of a call in step with the whole. -/
theorem inStep_first {s : State} {ib ob len1 len2 ic oc rate : Word}
    (fits : len1.toNat + len2.toNat < 2 ^ 32) :
    InStep len2.toNat (s.started ib ob (len1 + len2) ic oc rate)
      (s.started ib ob len1 ic oc rate) where
  mem := rfl
  phaseS := rfl
  phaseC := rfl
  i := rfl
  oc := rfl
  w := rfl
  m := rfl
  a := rfl
  input := rfl
  output := rfl
  frames := by
    have hlen : (len1 + len2).toNat = len1.toNat + len2.toNat := by
      rw [BitVec.toNat_add, Nat.mod_eq_of_lt fits]
    simp [State.started, Eng.start, hlen]

/-- The second part, started once the first has been answered, in step with the whole. -/
theorem InStep.second {s long short : State} {ib ob len1 len2 ic oc rate : Word}
    (h : InStep len2.toNat long short) (hcall : SameCall (s.started ib ob len1 ic oc rate) short)
    (last : short.eng.n = short.eng.len) (hi : short.eng.i = 0) (r : Response) :
    InStep 0 long ((short.stopEng.respond .main r).started (ib + len1 * oc) (ob + len1 * oc) len2
      ic oc rate) where
  mem := h.mem
  phaseS := h.phaseS
  phaseC := h.phaseC
  i := hi.symm.trans h.i
  oc := hcall.oc.symm.trans h.oc
  w := by
    rw [← h.w, hcall.w]
    exact congrArg (angularStep · rate) hcall.p0
  m := by
    rw [← h.m, hcall.m]
    exact hcall.p1
  a := by
    rw [← h.a, hcall.a]
    exact congrArg (fsub one32) hcall.p1
  input := by
    rw [← h.input, last, hcall.ib, hcall.len, hcall.oc]
    simp [State.started, Eng.start]
  output := by
    rw [← h.output, last, hcall.ob, hcall.len, hcall.oc]
    simp [State.started, Eng.start]
  frames := by
    simpa [State.started, Eng.start] using h.frames_of_last last

/-- Settles O34: the two parts are in step with the whole, one after the other, and each is answered by
a done step. -/
theorem twoBlocksEqualOne : Obligations.TwoBlocksEqualOne := by
  intro s t v ib ob len1 len2 ic oc rate live fits channels hstart hrun
  cases (exec_proc_place ib ob (len1 + len2) ic oc rate live).symm.trans hstart
  rw [Nat.add_mul, Nat.add_assoc] at hrun
  obtain ⟨long1, hrun1, hrest⟩ := engineRun_add_eq_next.mp hrun
  obtain ⟨long2, hrun2, hdone⟩ := engineRun_add_eq_next.mp hrest
  obtain ⟨short1, hrun1', hstep1, hcall1, last1, hi1⟩ :=
    (inStep_first fits).run_started ib ob len1 ic oc rate channels hrun1
  obtain ⟨short2, hrun2', hstep2, -, last2, -⟩ :=
    (hstep1.second hcall1 last1 hi1 ResultCode.ok.response).run_started _ _ len2 ic oc rate channels
      hrun2
  have longLast : long2.eng.n = long2.eng.len :=
    BitVec.eq_of_toNat_eq (hstep2.frames_of_last last2).symm
  cases (engineStep_done longLast).symm.trans (engineRun_one.mp hdone)
  have live1 : short1.live = true := hcall1.live.trans live
  exact ⟨_, _, _, _, exec_proc_place ib ob len1 ic oc rate live, engineRun_done hrun1' last1,
    exec_proc_place _ _ len2 ic oc rate live1, engineRun_done hrun2' last2, hstep2.mem, hstep2.phaseS,
    hstep2.phaseC, rfl, rfl⟩

end Sys2Proof.Machine

/-! ## The buffer query

`GETBUF` only answers, whatever its operands (`44_buffer_query.md` R171). -/

namespace Sys2Proof.Machine

theorem exec_getbuf_live {s : State} (live : s.live = true) (name buffer num : Word) :
    exec (.getbuf .ctrl name buffer num) s = .next (s.respond .ctrl ResultCode.ok.response) := by
  rw [exec, execGetbuf]
  exact gate_pass s .ctrl _ (fun _ => live) rfl

/-- Settles O16: with an instance `GETBUF` passes its tests and only answers; without one it is turned
away. -/
theorem getbufDoesNothing : Obligations.GetbufDoesNothing := by
  intro s name buffer num
  constructor
  · intro live
    exact ⟨_, exec_getbuf_live live name buffer num, answersOnly_respond s .ctrl _⟩
  · intro notLive
    exact ⟨_, exec_of_not_live rfl nofun notLive, answersOnly_respond s .ctrl _⟩

end Sys2Proof.Machine

/-! ## The code of every command

A command that passes its tests is answered `Ok` in the step that executes it, the start of a `PROC`
apart (`60_exceptions.md` R177, R183). -/

namespace Sys2Proof.Machine

/-- A command other than `PROC` that passes its tests is answered `Ok` on its port, whatever its own
effect, which leaves the port to the answer. -/
theorem exec_of_passed {i : Instr} {s : State} (hs : served i = true)
    (hl : s.live = true ∨ i = .create .main) (good : ¬ badIndex i)
    (hproc : ∀ ib ob len ic oc rate, i ≠ .proc .main ib ob len ic oc rate) :
    ∃ (u : State) (r : Response), exec i s = .next (u.respond i.port r) ∧
      u.port i.port = s.port i.port ∧ r.res = 0x00000000 := by
  cases i with
  | create p =>
    obtain rfl := eq_of_beq hs
    exact ⟨_, _, exec_create_main s, rfl, rfl⟩
  | release p =>
    obtain rfl := eq_of_beq hs
    exact ⟨_, _, exec_release_live (hl.resolve_right nofun), rfl, rfl⟩
  | proc p ib ob len ic oc rate =>
    obtain rfl := eq_of_beq hs
    exact absurd rfl (hproc ib ob len ic oc rate)
  | set p index v =>
    obtain rfl := eq_of_beq hs
    have valid := Bool.eq_true_of_not_eq_false (mt (idxValid_eq_false_iff index).mp good)
    exact ⟨_, _, exec_set_valid (hl.resolve_right nofun) v valid, writeP_ctrl s _ v, rfl⟩
  | get p index =>
    obtain rfl := eq_of_beq hs
    have valid := Bool.eq_true_of_not_eq_false (mt (idxValid_eq_false_iff index).mp good)
    exact ⟨_, _, exec_get_valid (hl.resolve_right nofun) valid, rfl, rfl⟩
  | desc p index =>
    obtain rfl := eq_of_beq hs
    have valid := Bool.eq_true_of_not_eq_false (mt (descValid_eq_false_iff index).mp good)
    exact ⟨_, _, exec_desc_valid (hl.resolve_right nofun) valid, rfl, rfl⟩
  | getbuf p name buffer num =>
    obtain rfl := eq_of_beq hs
    exact ⟨_, _, exec_getbuf_live (hl.resolve_right nofun) name buffer num, rfl, rfl⟩
  | reserved00 p | reserved04To07 p _ | reserved08To0F p _ | reserved14To17 p _
  | reserved18To1F p _ | reserved20To3F p _ | reserved40To7F p _ | reserved80ToFF p _
  | reservedRsvNonzero p _ _ => cases hs

/-- Settles O17: one lemma for each test that fires, one for the start of a `PROC`, and one for every
other command that passes. -/
theorem resultCodePriority : Obligations.ResultCodePriority := by
  intro i s
  refine ⟨fun hs => ?_, fun hs hc notLive => ?_, fun hs live bad => ?_, ?_, fun hs hl good hproc => ?_⟩
  · exact ⟨_, exec_of_not_served s hs, answersOnly_respond s i.port _⟩
  · exact ⟨_, exec_of_not_live hs hc notLive, answersOnly_respond s i.port _⟩
  · exact ⟨_, exec_of_badIndex hs live bad, answersOnly_respond s i.port _⟩
  · rintro ib ob len ic oc rate rfl live
    exact ⟨_, exec_proc_live ib ob len ic oc rate live, rfl, rfl⟩
  · obtain ⟨u, r, hexec, hport, hok⟩ := exec_of_passed hs hl good hproc
    exact ⟨_, r, hexec, by rw [respond_port_self, hport], hok⟩

end Sys2Proof.Machine

/-! ## Who may move

An enabled agent moves when the schedule names it, and the core is idle exactly when no agent is enabled
(`60_exceptions.md` R190, R191, R196). -/

namespace Sys2Proof.Machine

/-- The list of the enabled agents names every agent there is. -/
theorem enabledAgents_eq_nil_iff (s : State) : s.enabledAgents = [] ↔ ∀ a, s.enabled a = false := by
  rw [State.enabledAgents, List.filter_eq_nil_iff]
  constructor
  · intro h a
    refine Bool.eq_false_of_not_eq_true (h a ?_)
    cases a with
    | host p => cases p <;> decide
    | main | engine | control => decide
  · exact fun h a _ => by simp [h a]

theorem chooseFree_eq_none_iff (s : State) : s.chooseFree = none ↔ s.enabledAgents = [] := by
  unfold State.chooseFree
  split <;> simp_all

/-- Whatever the schedule holds, the core is idle exactly when no agent is enabled. -/
theorem choose_eq_none_iff (s : State) : s.choose = none ↔ ∀ a, s.enabled a = false := by
  unfold State.choose
  split
  · next b rest _ =>
    split
    · next hb =>
      exact iff_of_false nofun fun idle => Bool.false_ne_true ((idle b).symm.trans hb)
    · rw [chooseFree_eq_none_iff, enabledAgents_eq_nil_iff]
      simp only [enabled_schedule]
  · rw [chooseFree_eq_none_iff, enabledAgents_eq_nil_iff]

/-- The schedule's next agent moves if it is enabled, and its entry is used up. -/
theorem choose_scheduled {s : State} {a : Agent} (h : s.enabled a = true) :
    ({ s with schedule := a :: s.schedule } : State).choose = some (a, s) :=
  if_pos ((enabled_schedule s _ a).trans h)

/-- The main agent waits while the engine runs (`60_exceptions.md` R190). -/
theorem main_engine_exclusive (s : State) :
    ¬ (s.enabled .main = true ∧ s.enabled .engine = true) := by
  rintro ⟨hmain, hengine⟩
  simp only [State.enabled, Bool.and_eq_true, Bool.not_eq_true'] at hmain hengine
  exact Bool.false_ne_true (hmain.2.symm.trans hengine)

/-- Settles O37: the schedule can name any enabled agent, and no other is ever chosen. -/
theorem anyEnabledAgentMayMove : Obligations.AnyEnabledAgentMayMove :=
  ⟨fun _ _ h => choose_scheduled h, fun _ _ _ h => (choose_enabled h).1, main_engine_exclusive,
    fun s => (choose_eq_none_iff s).mp⟩

theorem step_of_choose_none {s : State} (h : s.choose = none) : step s = .next s := by rw [step, h]

/-- In a run that is over no agent has anything to do. -/
theorem RunOver.not_enabled {s : State} (h : RunOver s) (a : Agent) : s.enabled a = false := by
  obtain ⟨noMain, noCtrl, stopped, noMainTodo, noCtrlTodo⟩ := h
  cases a with
  | host p => cases p <;> simp [State.enabled, noMainTodo, noCtrlTodo]
  | main => simp [State.enabled, noMain]
  | engine => exact stopped
  | control => simp [State.enabled, noCtrl]

/-- Settles O38: no agent is enabled, so none is chosen and the state is held. -/
theorem finishedRunIsIdle : Obligations.FinishedRunIsIdle := fun s h =>
  ⟨(enabledAgents_eq_nil_iff s).mpr h.not_enabled,
    step_of_choose_none ((choose_eq_none_iff s).mpr h.not_enabled)⟩

end Sys2Proof.Machine

/-! ## The reset event

Either caller of the host may raise it, and it frees both ports, not only its own
(`70_reset_and_hazards.md` R200, R202). -/

namespace Sys2Proof.Machine

theorem hardReset_port (s : State) (q : Port) : s.hardReset.port q = (s.port q).cleared := by
  cases q <;> rfl

/-- Where a caller's next move is the reset, its step takes the move off its list and resets. -/
theorem hostStep_of_reset {s : State} {p : Port} {rest : List HostMove}
    (next : (s.port p).todo = .reset :: rest) : hostStep p s = .next (s.popTodo p).hardReset := by
  simp only [hostStep, next, State.hostMove]

/-- Settles O8: the reset clears each port but its list of moves, from which only the caller's own port
has lost one. -/
theorem resetEventDiscardsCommands : Obligations.ResetEventDiscardsCommands := by
  intro s p rest next
  refine ⟨_, hostStep_of_reset next, rfl, rfl, fun q => ?_, ?_, fun q hq => ?_, ?_, fun a => ?_⟩
  · rw [hardReset_port]
    exact ⟨rfl, rfl⟩
  · rw [hardReset_port, cleared_todo, popTodo_todo_self, next, List.tail_cons]
  · rw [hardReset_port, cleared_todo, popTodo_port_of_ne s hq]
  · rw [hardReset_rom, popTodo_rom]
  · rw [hardReset_mem, popTodo_mem]

end Sys2Proof.Machine

/-! ## The form of the sample memory

A step leaves the memory as it is or writes one word to it, and a word write keeps the canonical form
(`20_memory.md` R43, R44; the form is the model's, log 6). -/

namespace Sys2Proof.Machine

theorem MemoryCanonical.congr {s t : State} (hs : MemoryCanonical s) (h : t.mem = s.mem) :
    MemoryCanonical t := by
  unfold MemoryCanonical
  rw [h]
  exact hs

theorem MemoryCanonical.of_writeWord {s t : State} {addr v : Word} (hs : MemoryCanonical s)
    (h : t.mem = s.mem.writeWord addr v) : MemoryCanonical t := by
  unfold MemoryCanonical
  rw [h]
  exact wf_writeWord s.mem addr v hs

/-- Settles O39: the memory is as before, or has the sample step's word or the host's store written
to it. -/
theorem stepKeepsMemoryCanonical : Obligations.StepKeepsMemoryCanonical := by
  intro s t hs h
  obtain same | ⟨_, _, _, _, _, sampled⟩ | ⟨_, _, _, _, _, _, _, stored⟩ :=
    memoryChangesOnlyBySampleOrStore s t h
  · exact hs.congr same
  · exact hs.of_writeWord sampled
  · exact hs.of_writeWord stored

end Sys2Proof.Machine
